-- ==== Sys2Proof/Word.lean ====
section
/-! DEFINITION. The units of data of the block: bits, bytes, bit sequences (spec/00_scope.md R7, R8). -/

namespace Sys2Proof

/-- A byte: 8 bits, bit 0 the least significant (R7). -/
abbrev Byte := BitVec 8

/-- A bit sequence in shift order: the head is bit 0, the first bit shifted (R8). -/
abbrev Bits := List Bool

/-- A pin value or pin mask as a number: bit j is pin j (R25). It has `DIR_WIDTH` bits, a parameter (R5), so its bound
is `PinMask.fits`, not its type (log 24). -/
abbrev PinMask := Nat

/-- A mask of at most `w` bits. -/
def PinMask.fits (w : Nat) (m : PinMask) : Bool := decide (m < 2 ^ w)

end Sys2Proof
end

