-- ==== Sys2Proof/Config.lean ====
section
/-! DEFINITION. The implementation parameters of spec/00_scope.md R5 and spec/43_link_model.md R230, their
defaults, and the free values: what the spec calls "any value" or leaves OPEN.

The parameters are plain data held in a constant field of State, so that every statement is about every choice of
them (log 3). The free values are constants with no body (log 6). -/

namespace Sys2Proof

/-- `CARRY_POLICY` (R5, 92_eei_decisions.md D6). -/
inductive CarryPolicy where
  | enforce
  | legacy
  deriving DecidableEq, Repr

/-- `READ_BITS_JUSTIFY` (R5, 92_eei_decisions.md D9). -/
inductive Justify where
  | msb
  | lsb
  deriving DecidableEq, Repr

/-- Where the facility operations check the carry: before their arguments, as 42_engine.md R189 and the pseudocode of R191
to R194 have it, or after them, as 60_exceptions.md R255 and 92_eei_decisions.md D27 have it (log 26). -/
inductive CheckOrder where
  | carryFirst
  | argumentsFirst
  deriving DecidableEq, Repr

structure Config where
  /-- `MAX_FRAME`, in bytes. -/
  maxFrame : Nat
  writeBitsMax : Nat
  readBitsMax : Nat
  readBytesMax : Nat
  tmsMaxEvents : Nat
  tmsTdiDefault : Bool
  opcWbits : Byte
  opcWbytes : Byte
  opcWtms : Byte
  opcRbits : Byte
  opcRbytes : Byte
  opcRwbytes : Byte
  readBitsJustify : Justify
  carryPolicy : CarryPolicy
  /-- The model's own: which of two rules of the spec the facility operations follow (log 26). -/
  facilityOrder : CheckOrder
  /-- `DIR_WIDTH`, the number of bits of a pin mask. -/
  dirWidth : Nat
  pinTrst : PinMask
  pinTms : PinMask
  pinIdle : PinMask
  trstActiveLow : Bool
  /-- `SETTLE_DELAY`: nothing computed depends on it (60_exceptions.md R267). -/
  settleDelay : Nat
  /-- `READ_TDI`, of the link (R230). -/
  readTdi : Bool
  /-- `TARGET_HAS_TRST`, of the link (R230). -/
  targetHasTrst : Bool
  irLen : Nat
  drLen : Nat
  irCapture : Nat
  drCapture : Nat
  deriving DecidableEq, Repr

/-- Free value: `SETTLE_DELAY` is OPEN in R5. -/
opaque Config.settleDelayOpen : Nat

/-- Free value: the n-th bit drawn where the spec says "any value" of a TDO or a target register (R220, R224). -/
opaque Config.freeBit : Nat → Bool

/-- Free value: how many bytes of a `TxWrite` reached the device, or how many responses a failed `TxRead` took
(93_implementation_defined.md I7, 70_reset_and_hazards.md R293). -/
opaque Config.freeCut : Nat → Nat

/-- Free value: the frequency a `TxOpen` returns (93_implementation_defined.md I17). -/
opaque Config.freeFreq : Nat → Nat

/-- The defaults of R5, the opcodes of 30_encoding.md R79, the reference values of 43_link_model.md R230. -/
def Config.default : Config where
  maxFrame := 512
  writeBitsMax := 8
  readBitsMax := 8
  readBytesMax := 512
  tmsMaxEvents := 7
  tmsTdiDefault := true
  opcWbits := 0x1B#8
  opcWbytes := 0x19#8
  opcWtms := 0x4B#8
  opcRbits := 0x2A#8
  opcRbytes := 0x28#8
  opcRwbytes := 0x39#8
  readBitsJustify := .msb
  carryPolicy := .enforce
  facilityOrder := .argumentsFirst
  dirWidth := 8
  pinTrst := 0x10
  pinTms := 0x08
  pinIdle := 0x18
  trstActiveLow := true
  settleDelay := Config.settleDelayOpen
  readTdi := false
  targetHasTrst := true
  irLen := 4
  drLen := 32
  irCapture := 0b0001
  drCapture := 0x4BA00477

/-- The six opcode parameters (30_encoding.md R79). -/
def Config.opcodes (c : Config) : List Byte :=
  [c.opcWbits, c.opcWbytes, c.opcWtms, c.opcRbits, c.opcRbytes, c.opcRwbytes]

/-- A parameter choice that the layouts and the operations can carry: opcodes pairwise distinct and nothing more of them
(R79), counts that fit their length fields (R71, R75, R83), a `reset` frame of five events (42_engine.md R187), registers
of at least one bit, and pin masks of `DIR_WIDTH` bits (R5). R5 gives no range; the lower bounds are the model's choice
(log 3): 7 for `WRITE_BITS_MAX` and `READ_BITS_MAX`, since `write` and `read` emit residuals of up to 7 bits (41_framing.md
R151, R161), and 4 for `READ_BYTES_MAX`, since `idcode` reads 4 bytes (42_engine.md R190). -/
def Config.wf (c : Config) : Bool :=
  decide c.opcodes.Nodup &&
  decide (4 ≤ c.maxFrame ∧ c.maxFrame ≤ 65539) &&
  decide (7 ≤ c.writeBitsMax ∧ c.writeBitsMax ≤ 8) &&
  decide (7 ≤ c.readBitsMax ∧ c.readBitsMax ≤ 8) &&
  decide (4 ≤ c.readBytesMax ∧ c.readBytesMax ≤ 65536) &&
  decide (5 ≤ c.tmsMaxEvents ∧ c.tmsMaxEvents ≤ 7) &&
  decide (1 ≤ c.irLen ∧ 1 ≤ c.drLen) &&
  c.pinTrst.fits c.dirWidth && c.pinTms.fits c.dirWidth && c.pinIdle.fits c.dirWidth

end Sys2Proof
end

