-- ==== Sys2Proof/Syntax.lean ====
section
/-! DEFINITION. The instructions: the six frame kinds of spec/30_encoding.md R72 and the 28 operations of R85, one
constructor for each row of spec/opcode_table.json, over the operand forms of R86. -/

namespace Sys2Proof

/-- The 16 TAP states in the order of their codes (spec/10_state.md R21, spec/00_scope.md R14). -/
inductive Tap where
  | tlr | rti | seldr | capdr | shdr | ex1dr | pdr | ex2dr
  | updr | selir | capir | shir | ex1ir | pir | ex2ir | upir
  deriving DecidableEq, Repr

/-- The 16 states, code 0 first. -/
def allTaps : List Tap :=
  [.tlr, .rti, .seldr, .capdr, .shdr, .ex1dr, .pdr, .ex2dr,
   .updr, .selir, .capir, .shir, .ex1ir, .pir, .ex2ir, .upir]

/-- A transport command frame by its fields (R73 to R78). -/
inductive Frame where
  | wbits (b : Bits)
  | wbytes (b : Bits)
  | wtms (ev : Bits) (d : Bool)
  | rbits (n : Nat)
  | rbytes (n : Nat)
  | rwbytes (b : Bits)
  deriving DecidableEq, Repr

/-- One constructor per row of spec/opcode_table.json. `openSession` is the row `open` (a word of Lean's own). -/
inductive Instr where
  | wbits (b : Bits)
  | wbytes (b : Bits)
  | wtms (ev : Bits) (d : Bool)
  | rbits (n : Nat)
  | rbytes (n : Nat)
  | rwbytes (b : Bits)
  | currentState
  | gReset
  /-- `source = none`: the source is omitted and is `S.tap` (40_tap_fsm.md R118). -/
  | findPath (target : Tap) (source : Option Tap)
  | pathToEvents (path : List Tap)
  | applyEvents (ev : Bits)
  | queue (f : List Byte)
  | flush
  | writeBits (b : Bits)
  | writeBytes (b : Bits)
  | write (b : Bits)
  | writeTms (ev : Bits)
  | readBits (n : Nat)
  | readBytes (n : Nat)
  | read (n : Nat)
  | shiftBytes (b : Bits)
  | openSession (vid pid idx : Nat) (dir : PinMask) (freq : Nat)
  | close
  | changeState (t : Tap)
  | goIdle
  | writeIr (b : Bits)
  | writeDr (b : Bits)
  | readDr (n : Nat)
  | reset
  | idcode
  | preload (b : Bits)
  | sample
  | extest (b : Bits)
  | readback
  deriving DecidableEq, Repr

/-- The two forms an instruction is given in: the bytes of a frame (R70), or a line of text (R88). -/
inductive Form where
  | frame
  | line
  deriving DecidableEq, Repr

/-- A frame as an instruction. -/
def Frame.toInstr : Frame → Instr
  | .wbits b => .wbits b
  | .wbytes b => .wbytes b
  | .wtms ev d => .wtms ev d
  | .rbits n => .rbits n
  | .rbytes n => .rbytes n
  | .rwbytes b => .rwbytes b

/-- The form an instruction is given in: "no binary encoding" for the operations of R85. -/
def Instr.form : Instr → Form
  | .wbits _ => .frame
  | .wbytes _ => .frame
  | .wtms _ _ => .frame
  | .rbits _ => .frame
  | .rbytes _ => .frame
  | .rwbytes _ => .frame
  | .currentState => .line
  | .gReset => .line
  | .findPath _ _ => .line
  | .pathToEvents _ => .line
  | .applyEvents _ => .line
  | .queue _ => .line
  | .flush => .line
  | .writeBits _ => .line
  | .writeBytes _ => .line
  | .write _ => .line
  | .writeTms _ => .line
  | .readBits _ => .line
  | .readBytes _ => .line
  | .read _ => .line
  | .shiftBytes _ => .line
  | .openSession _ _ _ _ _ => .line
  | .close => .line
  | .changeState _ => .line
  | .goIdle => .line
  | .writeIr _ => .line
  | .writeDr _ => .line
  | .readDr _ => .line
  | .reset => .line
  | .idcode => .line
  | .preload _ => .line
  | .sample => .line
  | .extest _ => .line
  | .readback => .line

/-- Why bytes are no instruction. -/
inductive Reject where
  /-- The bytes end before the frame does. -/
  | truncated
  /-- A byte at a frame start that equals none of the six opcodes (43_link_model.md R228). -/
  | unknownOpcode
  /-- A 1-byte length field outside the layouts of R73, R75, R76. -/
  | reservedLength
  /-- A line whose first word is no operation of R85. -/
  | unknownOperation
  /-- An operation whose operand is not of the form R88 gives it. -/
  | badOperand
  deriving DecidableEq, Repr

end Sys2Proof
end

