-- ==== Sys2Proof/WellFormed.lean ====
section
/-! DEFINITION. Which instructions have an encoding: the legal field ranges of spec/30_encoding.md R83. A host
operation takes any value of its operand forms (R86: its length "is checked by the operation, not by the
interface"), so every operation is well formed whose pin mask, if it has one, is of `DIR_WIDTH` bits (10_state.md
R25). -/

namespace Sys2Proof

/-- A whole number of bytes, at least one and at most `maxBytes`. -/
def wholeBytes (maxBytes : Nat) (b : Bits) : Bool :=
  decide (1 ≤ b.length / 8) && decide (b.length % 8 = 0) && decide (b.length / 8 ≤ maxBytes)

/-- The ranges of R73 to R78 and R83. -/
def Frame.wellFormed (c : Config) : Frame → Bool
  | .wbits b => decide (1 ≤ b.length ∧ b.length ≤ c.writeBitsMax)
  | .wbytes b => wholeBytes (c.maxFrame - 3) b
  | .wtms ev _ => decide (1 ≤ ev.length ∧ ev.length ≤ c.tmsMaxEvents)
  | .rbits n => decide (1 ≤ n ∧ n ≤ c.readBitsMax)
  | .rbytes n => decide (1 ≤ n ∧ n ≤ c.readBytesMax)
  | .rwbytes b => wholeBytes (c.maxFrame - 3) b

/-- Well-formedness of an instruction under the parameters `c`. -/
def Instr.wellFormed (c : Config) : Instr → Bool
  | .wbits b => Frame.wellFormed c (.wbits b)
  | .wbytes b => Frame.wellFormed c (.wbytes b)
  | .wtms ev d => Frame.wellFormed c (.wtms ev d)
  | .rbits n => Frame.wellFormed c (.rbits n)
  | .rbytes n => Frame.wellFormed c (.rbytes n)
  | .rwbytes b => Frame.wellFormed c (.rwbytes b)
  | .currentState => true
  | .gReset => true
  | .findPath _ _ => true
  | .pathToEvents _ => true
  | .applyEvents _ => true
  | .queue _ => true
  | .flush => true
  | .writeBits _ => true
  | .writeBytes _ => true
  | .write _ => true
  | .writeTms _ => true
  | .readBits _ => true
  | .readBytes _ => true
  | .read _ => true
  | .shiftBytes _ => true
  | .openSession _ _ _ dir _ => dir.fits c.dirWidth
  | .close => true
  | .changeState _ => true
  | .goIdle => true
  | .writeIr _ => true
  | .writeDr _ => true
  | .readDr _ => true
  | .reset => true
  | .idcode => true
  | .preload _ => true
  | .sample => true
  | .extest _ => true
  | .readback => true

end Sys2Proof
end

