-- ==== Sys2Proof/Decode.lean ====
section
/-! DEFINITION. Bits to bytes and back (spec/00_scope.md R9, R10); the frames of spec/30_encoding.md R70 to R83; the
text of host operations (R88); and the encoder. Bytes are decoded to an instruction or rejected by name.

Frames are bytes and operations are text; the form of a request is given with it (`Form`), so any six distinct bytes
can be opcodes (R79; log 16). -/

namespace Sys2Proof

/-! ## Bit sequences as bytes and numbers -/

/-- `int(b)`: bit 0 is the least significant (R10). -/
def natOfBits : Bits → Nat
  | [] => 0
  | b :: bs => b.toNat + 2 * natOfBits bs

/-- `pack8(b)` for at most 8 bits: bit 0 of the sequence is bit 0 of the byte, the bits above are 0 (R9). -/
def pack8 (b : Bits) : Byte := BitVec.ofNat 8 (natOfBits b)

/-- `unpack8(x, n)`: bits 0 to n - 1 of the byte (R9). -/
def unpack8 (x : Byte) (n : Nat) : Bits := (List.range n).map fun i => x.getLsbD i

/-- The first `n` bytes of `packbytes(b)`. -/
def packBytesN : Nat → Bits → List Byte
  | 0, _ => []
  | n + 1, b => pack8 (b.take 8) :: packBytesN n (b.drop 8)

/-- `packbytes(b)`: byte k is `pack8(b[8k ..< 8k + 8])` (R9). -/
def packBytes (b : Bits) : List Byte := packBytesN (b.length / 8) b

/-- `unpackbytes(B)` (R9). -/
def unpackBytes (bs : List Byte) : Bits := bs.flatMap fun x => unpack8 x 8

/-- The low `n` bits of a number, bit 0 first (`IR_CAPTURE` and `DR_CAPTURE`, 43_link_model.md R232). -/
def bitsOfNat (n v : Nat) : Bits := (List.range n).map fun i => v.testBit i

/-- The number of a TAP state: its place in the table of 10_state.md R21. -/
def tapCode (t : Tap) : BitVec 4 := BitVec.ofNat 4 (allTaps.idxOf t)

/-- The TAP state of a code: all 16 codes are legal (10_state.md R21). -/
def tapOfCode (c : BitVec 4) : Tap := allTaps.getD c.toNat .tlr

/-! ## Frames -/

/-- A 1-byte length field: count - 1 (R71). -/
def len8 (n : Nat) : Byte := BitVec.ofNat 8 (n - 1)

/-- A 2-byte length field: count - 1, low byte first (R43, R71). -/
def len16 (n : Nat) : List Byte := [BitVec.ofNat 8 (n - 1), BitVec.ofNat 8 ((n - 1) / 256)]

/-- The bytes of a frame (R73 to R78). -/
def encodeFrame (c : Config) : Frame → List Byte
  | .wbits b => [c.opcWbits, len8 b.length, pack8 b]
  | .wbytes b => c.opcWbytes :: (len16 (b.length / 8) ++ packBytes b)
  | .wtms ev d => [c.opcWtms, len8 ev.length, pack8 ev ||| (if d then 0x80#8 else 0x00#8)]
  | .rbits n => [c.opcRbits, len8 n]
  | .rbytes n => c.opcRbytes :: len16 n
  | .rwbytes b => c.opcRwbytes :: (len16 (b.length / 8) ++ packBytes b)

/-- The number of bytes of a frame (R81). -/
def Frame.size : Frame → Nat
  | .wbits _ => 3
  | .wbytes b => 3 + b.length / 8
  | .wtms _ _ => 3
  | .rbits _ => 2
  | .rbytes _ => 3
  | .rwbytes b => 3 + b.length / 8

/-- `WBITS` after its opcode: bits 7:3 of the length byte are 0 (R73). Payload bits above the count are not read
(43_link_model.md R222; log 14). -/
def decodeWbits : List Byte → Except Reject (Frame × List Byte)
  | n :: p :: rest =>
    if n.toNat < 8 then .ok (.wbits (unpack8 p (n.toNat + 1)), rest) else .error .reservedLength
  | _ => .error .truncated

/-- `WTMS` after its opcode: the length field is 0 to 6, bit 7 of the payload is the TDI value (R75). -/
def decodeWtms : List Byte → Except Reject (Frame × List Byte)
  | n :: p :: rest =>
    if n.toNat < 7 then .ok (.wtms (unpack8 p (n.toNat + 1)) (p.getLsbD 7), rest) else .error .reservedLength
  | _ => .error .truncated

/-- `RBITS` after its opcode (R76). -/
def decodeRbits : List Byte → Except Reject (Frame × List Byte)
  | n :: rest => if n.toNat < 8 then .ok (.rbits (n.toNat + 1), rest) else .error .reservedLength
  | _ => .error .truncated

/-- The count a 2-byte length field holds (R71). -/
def countOf16 (lo hi : Byte) : Nat := lo.toNat + 256 * hi.toNat + 1

/-- `RBYTES` after its opcode (R77). -/
def decodeRbytes : List Byte → Except Reject (Frame × List Byte)
  | lo :: hi :: rest => .ok (.rbytes (countOf16 lo hi), rest)
  | _ => .error .truncated

/-- `WBYTES` and `RWBYTES` after their opcode: the length field, then that many payload bytes (R74, R78, R81). -/
def decodePayload (mk : Bits → Frame) : List Byte → Except Reject (Frame × List Byte)
  | lo :: hi :: rest =>
    if rest.length < countOf16 lo hi then .error .truncated
    else .ok (mk (unpackBytes (rest.take (countOf16 lo hi))), rest.drop (countOf16 lo hi))
  | _ => .error .truncated

/-- The first frame of a byte stream and the bytes after it: the opcode alone tells the kind (R81). -/
def decodeFrame (c : Config) : List Byte → Except Reject (Frame × List Byte)
  | [] => .error .truncated
  | op :: rest =>
    if op = c.opcWbits then decodeWbits rest
    else if op = c.opcWbytes then decodePayload .wbytes rest
    else if op = c.opcWtms then decodeWtms rest
    else if op = c.opcRbits then decodeRbits rest
    else if op = c.opcRbytes then decodeRbytes rest
    else if op = c.opcRwbytes then decodePayload .rwbytes rest
    else .error .unknownOpcode

/-! ## Operands as text (R88) -/

/-- The codes of characters. -/
def ascii (cs : List Char) : List Byte := cs.map fun ch => BitVec.ofNat 8 ch.toNat

def chNewline : Byte := 10#8
def chSpace : Byte := 32#8
def chComma : Byte := 44#8
def chSemicolon : Byte := 59#8
def chOpen : Byte := 91#8
def chClose : Byte := 93#8

/-- `[]`: the empty bit sequence (R88), and by extension the empty path and the empty byte list (log 16). -/
def emptyText : List Byte := [chOpen, chClose]

def showBit (b : Bool) : Byte := if b then 49#8 else 48#8

def readBit (ch : Byte) : Option Bool := if ch = 48#8 then some false else if ch = 49#8 then some true else none

/-- A bit sequence in shift order, leftmost digit bit 0 (R8, R88). -/
def showBits (b : Bits) : List Byte := if b = [] then emptyText else b.map showBit

def parseBits (t : List Byte) : Option Bits :=
  if t = emptyText then some [] else if t = [] then none else t.mapM readBit

/-- The decimal digits of a number, last digit first; `fuel` bounds their count. -/
def digitsRev : Nat → Nat → List Nat
  | 0, _ => []
  | fuel + 1, n => if n < 10 then [n] else n % 10 :: digitsRev fuel (n / 10)

def showDigit (d : Nat) : Byte := BitVec.ofNat 8 (48 + d)

/-- A natural in decimal. -/
def showNat (n : Nat) : List Byte := ((digitsRev (n + 1) n).map showDigit).reverse

def readDigit (ch : Byte) : Option Nat :=
  if 48 ≤ ch.toNat ∧ ch.toNat ≤ 57 then some (ch.toNat - 48) else none

/-- The number of a list of decimal digits, first digit first. -/
def natOfDigits (ds : List Nat) : Nat := ds.foldl (fun n d => 10 * n + d) 0

def parseNat (t : List Byte) : Option Nat := if t = [] then none else (t.mapM readDigit).map natOfDigits

/-- A TAP state by its mnemonic (00_scope.md R14, R88). -/
def tapName : Tap → List Byte
  | .tlr => ascii ['T', 'L', 'R']
  | .rti => ascii ['R', 'T', 'I']
  | .seldr => ascii ['S', 'E', 'L', 'D', 'R']
  | .capdr => ascii ['C', 'A', 'P', 'D', 'R']
  | .shdr => ascii ['S', 'H', 'D', 'R']
  | .ex1dr => ascii ['E', 'X', '1', 'D', 'R']
  | .pdr => ascii ['P', 'D', 'R']
  | .ex2dr => ascii ['E', 'X', '2', 'D', 'R']
  | .updr => ascii ['U', 'P', 'D', 'R']
  | .selir => ascii ['S', 'E', 'L', 'I', 'R']
  | .capir => ascii ['C', 'A', 'P', 'I', 'R']
  | .shir => ascii ['S', 'H', 'I', 'R']
  | .ex1ir => ascii ['E', 'X', '1', 'I', 'R']
  | .pir => ascii ['P', 'I', 'R']
  | .ex2ir => ascii ['E', 'X', '2', 'I', 'R']
  | .upir => ascii ['U', 'P', 'I', 'R']

def parseTap (t : List Byte) : Option Tap := allTaps.find? fun s => tapName s == t

/-- `[A,B,…]` (R88). -/
def showPath (p : List Tap) : List Byte := chOpen :: ([chComma].intercalate (p.map tapName) ++ [chClose])

/-- A path. Spaces after a comma are allowed: R88's grammar has none, 95_test_vectors.md section 2.1 writes them (log 16). -/
def parsePath (t : List Byte) : Option (List Tap) :=
  if t = emptyText then some []
  else if t.head? = some chOpen ∧ t.getLast? = some chClose then
    match (t.drop 1).dropLast.splitOn chComma with
    | [] => none
    | first :: more => (first :: more.map (·.dropWhile (· == chSpace))).mapM parseTap
  else none

/-- A hexadecimal digit, upper case as the spec writes bytes (R7). -/
def showHex (n : Nat) : Byte := BitVec.ofNat 8 (if n < 10 then 48 + n else 55 + n)

def readHex (ch : Byte) : Option Nat :=
  if 48 ≤ ch.toNat ∧ ch.toNat ≤ 57 then some (ch.toNat - 48)
  else if 65 ≤ ch.toNat ∧ ch.toNat ≤ 70 then some (ch.toNat - 55)
  else if 97 ≤ ch.toNat ∧ ch.toNat ≤ 102 then some (ch.toNat - 87)
  else none

def showHexByte (b : Byte) : List Byte := [showHex (b.toNat / 16), showHex (b.toNat % 16)]

def parseHexByte : List Byte → Option Byte
  | [h, l] => (readHex h).bind fun x => (readHex l).map fun y => BitVec.ofNat 8 (16 * x + y)
  | _ => none

/-- Hex pairs separated by one space (R88). -/
def showHexBytes (f : List Byte) : List Byte :=
  if f = [] then emptyText else [chSpace].intercalate (f.map showHexByte)

def parseHexBytes (t : List Byte) : Option (List Byte) :=
  if t = emptyText then some [] else (t.splitOn chSpace).mapM parseHexByte

/-- `target [ "from" source ]` (R88). -/
def showTarget (target : Tap) : Option Tap → List Byte
  | none => tapName target
  | some source => [chSpace].intercalate [tapName target, ascii ['f', 'r', 'o', 'm'], tapName source]

def parseTarget (t : List Byte) : Option (Tap × Option Tap) :=
  match t.splitOn chSpace with
  | [a] => (parseTap a).map fun target => (target, none)
  | [a, f, b] =>
    if f = ascii ['f', 'r', 'o', 'm'] then
      (parseTap a).bind fun target => (parseTap b).map fun source => (target, some source)
    else none
  | _ => none

/-- A pin mask is a natural that fits `DIR_WIDTH` bits. -/
def parseMask (c : Config) (t : List Byte) : Option PinMask :=
  (parseNat t).bind fun n => if PinMask.fits c.dirWidth n then some n else none

/-- The arguments of `open` in the order of 42_engine.md R180, five naturals (log 16). -/
def showOpen (vid pid idx : Nat) (dir : PinMask) (freq : Nat) : List Byte :=
  [chSpace].intercalate [showNat vid, showNat pid, showNat idx, showNat dir, showNat freq]

def parseOpen (cfg : Config) (t : List Byte) : Option Instr :=
  match t.splitOn chSpace with
  | [a, b, c, d, e] =>
    (parseNat a).bind fun vid => (parseNat b).bind fun pid => (parseNat c).bind fun idx =>
      (parseMask cfg d).bind fun dir => (parseNat e).map fun freq => .openSession vid pid idx dir freq
  | _ => none

/-! ## Operation lines (R85, R88) -/

def nmCurrentState : List Byte := ascii ['c', 'u', 'r', 'r', 'e', 'n', 't', '_', 's', 't', 'a', 't', 'e']
def nmGReset : List Byte := ascii ['G', '.', 'r', 'e', 's', 'e', 't']
def nmFindPath : List Byte := ascii ['f', 'i', 'n', 'd', '_', 'p', 'a', 't', 'h']
def nmPathToEvents : List Byte :=
  ascii ['p', 'a', 't', 'h', '_', 't', 'o', '_', 'e', 'v', 'e', 'n', 't', 's']
def nmApplyEvents : List Byte := ascii ['a', 'p', 'p', 'l', 'y', '_', 'e', 'v', 'e', 'n', 't', 's']
def nmQueue : List Byte := ascii ['q', 'u', 'e', 'u', 'e']
def nmFlush : List Byte := ascii ['f', 'l', 'u', 's', 'h']
def nmWriteBits : List Byte := ascii ['w', 'r', 'i', 't', 'e', '_', 'b', 'i', 't', 's']
def nmWriteBytes : List Byte := ascii ['w', 'r', 'i', 't', 'e', '_', 'b', 'y', 't', 'e', 's']
def nmWrite : List Byte := ascii ['w', 'r', 'i', 't', 'e']
def nmWriteTms : List Byte := ascii ['w', 'r', 'i', 't', 'e', '_', 't', 'm', 's']
def nmReadBits : List Byte := ascii ['r', 'e', 'a', 'd', '_', 'b', 'i', 't', 's']
def nmReadBytes : List Byte := ascii ['r', 'e', 'a', 'd', '_', 'b', 'y', 't', 'e', 's']
def nmRead : List Byte := ascii ['r', 'e', 'a', 'd']
def nmShiftBytes : List Byte := ascii ['s', 'h', 'i', 'f', 't', '_', 'b', 'y', 't', 'e', 's']
def nmOpen : List Byte := ascii ['o', 'p', 'e', 'n']
def nmClose : List Byte := ascii ['c', 'l', 'o', 's', 'e']
def nmChangeState : List Byte := ascii ['c', 'h', 'a', 'n', 'g', 'e', '_', 's', 't', 'a', 't', 'e']
def nmGoIdle : List Byte := ascii ['g', 'o', '_', 'i', 'd', 'l', 'e']
def nmWriteIr : List Byte := ascii ['w', 'r', 'i', 't', 'e', '_', 'i', 'r']
def nmWriteDr : List Byte := ascii ['w', 'r', 'i', 't', 'e', '_', 'd', 'r']
def nmReadDr : List Byte := ascii ['r', 'e', 'a', 'd', '_', 'd', 'r']
def nmReset : List Byte := ascii ['r', 'e', 's', 'e', 't']
def nmIdcode : List Byte := ascii ['i', 'd', 'c', 'o', 'd', 'e']
def nmPreload : List Byte := ascii ['p', 'r', 'e', 'l', 'o', 'a', 'd']
def nmSample : List Byte := ascii ['s', 'a', 'm', 'p', 'l', 'e']
def nmExtest : List Byte := ascii ['e', 'x', 't', 'e', 's', 't']
def nmReadback : List Byte := ascii ['r', 'e', 'a', 'd', 'b', 'a', 'c', 'k']

/-- An operation with no operand. -/
def noOperand (arg : List Byte) (i : Instr) : Option Instr := if arg = [] then some i else none

/-- Each operation's name with the reader of its operand. -/
def opTable (c : Config) : List (List Byte × (List Byte → Option Instr)) :=
  [(nmCurrentState, fun a => noOperand a .currentState),
   (nmGReset, fun a => noOperand a .gReset),
   (nmFindPath, fun a => (parseTarget a).map fun p => .findPath p.1 p.2),
   (nmPathToEvents, fun a => (parsePath a).map .pathToEvents),
   (nmApplyEvents, fun a => (parseBits a).map .applyEvents),
   (nmQueue, fun a => (parseHexBytes a).map .queue),
   (nmFlush, fun a => noOperand a .flush)] ++
  [(nmWriteBits, fun a => (parseBits a).map .writeBits),
   (nmWriteBytes, fun a => (parseBits a).map .writeBytes),
   (nmWrite, fun a => (parseBits a).map .write),
   (nmWriteTms, fun a => (parseBits a).map .writeTms),
   (nmReadBits, fun a => (parseNat a).map .readBits),
   (nmReadBytes, fun a => (parseNat a).map .readBytes),
   (nmRead, fun a => (parseNat a).map .read),
   (nmShiftBytes, fun a => (parseBits a).map .shiftBytes)] ++
  [(nmOpen, parseOpen c),
   (nmClose, fun a => noOperand a .close),
   (nmChangeState, fun a => (parseTap a).map .changeState),
   (nmGoIdle, fun a => noOperand a .goIdle),
   (nmWriteIr, fun a => (parseBits a).map .writeIr),
   (nmWriteDr, fun a => (parseBits a).map .writeDr),
   (nmReadDr, fun a => (parseNat a).map .readDr),
   (nmReset, fun a => noOperand a .reset)] ++
  [(nmIdcode, fun a => noOperand a .idcode),
   (nmPreload, fun a => (parseBits a).map .preload),
   (nmSample, fun a => noOperand a .sample),
   (nmExtest, fun a => (parseBits a).map .extest),
   (nmReadback, fun a => noOperand a .readback)]

/-- One operation from its name and its operand. -/
def decodeOp (c : Config) (name arg : List Byte) : Except Reject Instr :=
  match (opTable c).find? fun row => row.1 == name with
  | none => .error .unknownOperation
  | some row =>
    match row.2 arg with
    | none => .error .badOperand
    | some i => .ok i

/-- A line without its comment and without the spaces at its end (R88). -/
def lineText (line : List Byte) : List Byte :=
  ((line.takeWhile (· != chSemicolon)).reverse.dropWhile (· == chSpace)).reverse

/-- One line: the name up to the first space, the operand after the spaces (R88). -/
def decodeLine (c : Config) (line : List Byte) : Except Reject Instr :=
  let t := lineText line
  decodeOp c (t.takeWhile (· != chSpace)) ((t.dropWhile (· != chSpace)).dropWhile (· == chSpace))

/-- The first instruction of a byte list in the given form, and the bytes after it: a frame, or a line of text up to and
with its newline. Total on any bytes. -/
def decode (c : Config) (form : Form) (bs : List Byte) : Except Reject (Instr × List Byte) :=
  match form with
  | .frame =>
    match decodeFrame c bs with
    | .ok (f, rest) => .ok (f.toInstr, rest)
    | .error e => .error e
  | .line =>
    match decodeLine c (bs.takeWhile (· != chNewline)) with
    | .ok i => .ok (i, (bs.dropWhile (· != chNewline)).drop 1)
    | .error e => .error e

/-! ## The encoder -/

/-- A line of an operation with no operand. -/
def line0 (name : List Byte) : List Byte := name ++ [chNewline]

/-- A line of an operation and its operand. -/
def line1 (name arg : List Byte) : List Byte := name ++ chSpace :: (arg ++ [chNewline])

/-- The bytes of an instruction: a frame (R73 to R78) or a line of text (R88). -/
def encode (c : Config) : Instr → List Byte
  | .wbits b => encodeFrame c (.wbits b)
  | .wbytes b => encodeFrame c (.wbytes b)
  | .wtms ev d => encodeFrame c (.wtms ev d)
  | .rbits n => encodeFrame c (.rbits n)
  | .rbytes n => encodeFrame c (.rbytes n)
  | .rwbytes b => encodeFrame c (.rwbytes b)
  | .currentState => line0 nmCurrentState
  | .gReset => line0 nmGReset
  | .findPath target source => line1 nmFindPath (showTarget target source)
  | .pathToEvents path => line1 nmPathToEvents (showPath path)
  | .applyEvents ev => line1 nmApplyEvents (showBits ev)
  | .queue f => line1 nmQueue (showHexBytes f)
  | .flush => line0 nmFlush
  | .writeBits b => line1 nmWriteBits (showBits b)
  | .writeBytes b => line1 nmWriteBytes (showBits b)
  | .write b => line1 nmWrite (showBits b)
  | .writeTms ev => line1 nmWriteTms (showBits ev)
  | .readBits n => line1 nmReadBits (showNat n)
  | .readBytes n => line1 nmReadBytes (showNat n)
  | .read n => line1 nmRead (showNat n)
  | .shiftBytes b => line1 nmShiftBytes (showBits b)
  | .openSession vid pid idx dir freq => line1 nmOpen (showOpen vid pid idx dir freq)
  | .close => line0 nmClose
  | .changeState t => line1 nmChangeState (tapName t)
  | .goIdle => line0 nmGoIdle
  | .writeIr b => line1 nmWriteIr (showBits b)
  | .writeDr b => line1 nmWriteDr (showBits b)
  | .readDr n => line1 nmReadDr (showNat n)
  | .reset => line0 nmReset
  | .idcode => line0 nmIdcode
  | .preload b => line1 nmPreload (showBits b)
  | .sample => line0 nmSample
  | .extest b => line1 nmExtest (showBits b)
  | .readback => line0 nmReadback

/-! ## Words as spec/opcode_table.json numbers them -/

/-- The `n` bytes of a word, bits 7..0 first. -/
def bytesOfWord : Nat → Nat → List Byte
  | 0, _ => []
  | n + 1, w => BitVec.ofNat 8 w :: bytesOfWord n (w / 256)

/-- How many bytes after a word's own an instruction can have: its payload, of which the count is in bits 23..8. -/
def operandRoom (w : Nat) : Nat :=
  if BitVec.ofNat 8 w = Config.default.opcWbytes ∨ BitVec.ofNat 8 w = Config.default.opcRwbytes then
    4 + w / 256 % 65536
  else 4

/-- The bytes of a word of `nbits` bits, and after them the zeros of an instruction longer than that. -/
def tableBytes (nbits w : Nat) : List Byte := bytesOfWord (nbits / 8) w ++ List.replicate (operandRoom w) 0#8

/-- The instruction a table word decodes to, under the default parameters. -/
def decodeTableWord (nbits w : Nat) : Option Instr :=
  match decode Config.default .frame (tableBytes nbits w) with
  | .ok (i, _) => some i
  | .error _ => none

end Sys2Proof
end

