-- ==== Sys2Proof/Machine/State.lean ====
section
/-! DEFINITION. The state: the fields of spec/10_state.md R20 to R25, the parameters, the link and target of
spec/43_link_model.md R220 and R231, and the host interface of a step (inputs, events, outcome). Plain data. -/

namespace Sys2Proof.Machine

/-- `S.session` (R20). -/
inductive Session where
  | closed
  | opened
  deriving DecidableEq, Repr

/-- The two agents: the block runs what its host requests, the link runs what it reads from the wire (log 2). -/
inductive Agent where
  | block
  | link
  deriving DecidableEq, Repr

/-- `PIE` causes with their arguments (60_exceptions.md R251). -/
inductive PieCause where
  | frameTooLarge (length : Nat)
  | bitCount (count : Nat)
  | byteAlign (count : Nat)
  | emptyWrite
  | tmsLength (count : Nat)
  | readBitsBound (n : Nat)
  | readBytesBound (n : Nat)
  | carryPending
  | invalidPath (path : List Tap)
  | noPath (target : Tap)
  | providerValue (value : Int)
  deriving DecidableEq, Repr

/-- `TE` causes (60_exceptions.md R252). -/
inductive TeCause where
  | openFailed
  | writeFailed
  | readFailed
  | shortRead
  | pinsFailed
  | closeFailed
  deriving DecidableEq, Repr

/-- `CME` causes (60_exceptions.md R253). -/
inductive CmeCause where
  | sessionClosed
  | alreadyOpen
  deriving DecidableEq, Repr

/-- An error: a kind and a cause (60_exceptions.md R250). -/
inductive Err where
  | te (cause : TeCause)
  | pie (cause : PieCause)
  | cme (cause : CmeCause)
  deriving DecidableEq, Repr

/-- The result of an operation (30_encoding.md R85). -/
inductive Value where
  | none
  | state (t : Tap)
  | path (p : List Tap)
  | bits (b : Bits)
  | freq (f : Nat)
  | int (n : Nat)
  deriving DecidableEq, Repr

/-- The outcome delivered to the host: a result, or an error in its place (60_exceptions.md R258). -/
inductive Reply where
  | ok (v : Value)
  | error (e : Err)
  deriving DecidableEq, Repr

/-- An observable event: a transport call with its arguments and its result (`none` and `false`: it failed), or a
`Delay` (20_memory.md R50, 00_scope.md R11). -/
inductive TxEvent where
  | txOpen (vid pid idx : Nat) (dir : PinMask) (freq : Nat) (actual : Option Nat)
  | setPins (value dir : PinMask) (ok : Bool)
  | write (bytes : List Byte) (ok : Bool)
  | read (n : Nat) (answer : Option (List Byte))
  | txClose (ok : Bool)
  | delay (t : Nat)
  deriving DecidableEq, Repr

/-- How the transport answers one call: an input of the step (10_state.md R29, 20_memory.md R51; log 7). -/
inductive TxAnswer where
  /-- The call completes; the bytes of a `TxRead` are the reference link's (43_link_model.md R227). -/
  | served
  /-- The call completes; a `TxRead` returns these bytes, whatever the reference link holds. -/
  | bytes (b : List Byte)
  /-- The call completes; a `TxOpen` returns this frequency. -/
  | freq (f : Nat)
  /-- The call fails. -/
  | fail
  deriving DecidableEq, Repr

/-- The boundary-scan provider's answers, inputs of the step (20_memory.md R56). -/
structure Provider where
  /-- `P.jtag_instruction("preload")` -/
  preload : Bits
  /-- `P.jtag_instruction("sample")` -/
  sample : Bits
  /-- `P.jtag_instruction("extest")` -/
  extest : Bits
  /-- `P.boundary_length()`, which may be negative (42_engine.md R192). -/
  boundaryLength : Int
  deriving DecidableEq, Repr

/-- One request of the host: the bytes of an instruction, and the inputs of the step that runs it (R29). -/
structure Request where
  form : Form
  bytes : List Byte
  answers : List TxAnswer
  prov : Provider
  deriving DecidableEq, Repr

/-- The record `L` of 43_link_model.md R220 with the reference target's registers (R231). -/
structure Link where
  /-- `L.poss`: the states the remote TAP may be in, in the order of `allTaps`, without repeats. -/
  poss : List Tap
  /-- `L.tms`: the level of the TMS line, `none` when unknown. -/
  tms : Option Bool
  /-- `L.out`: the response bytes not yet read, oldest first. -/
  out : List Byte
  irSh : Bits
  drSh : Bits
  irUpd : Bits
  drUpd : Bits
  /-- The bytes of each `TxWrite`, oldest first, less those already interpreted (R221). -/
  wire : List (List Byte)
  /-- The model's own: a transport call has failed and no pin change has completed since, so that less than a frame on the
  wire may be the piece of one (log 27). -/
  torn : Bool
  /-- The model's own: how many free values have been drawn (log 6). -/
  free : Nat
  deriving DecidableEq, Repr

/-- What stood when the block's current operation began: how many calls had been made, and the link
(70_reset_and_hazards.md R293; log 9). -/
structure OpStart where
  calls : Nat
  link : Link
  deriving DecidableEq, Repr

structure State where
  /-- The parameters: constant (10_state.md R29). -/
  cfg : Config
  /-- `S.session` (R20). -/
  session : Session
  /-- `S.tap` (R21). -/
  tap : Tap
  /-- `S.buf` (R22). -/
  buf : List Byte
  /-- `S.carry_v` (R23). -/
  carryV : Bool
  /-- `S.carry_b` (R24). -/
  carryB : Bool
  /-- `S.dir` (R25). -/
  dir : PinMask
  /-- The link and target (43_link_model.md). -/
  link : Link
  /-- The events so far, oldest first (20_memory.md R50). -/
  events : List TxEvent
  /-- The outcome of the last operation (60_exceptions.md R258). -/
  reply : Option Reply
  /-- The transport's answers to this step's calls still to come (R29). -/
  inp : List TxAnswer
  /-- The provider's answers in this step (R29). -/
  prov : Provider
  /-- The host's requests still to come (R27). -/
  requests : List Request
  /-- The model's own: what stood when the current operation began (log 9). -/
  began : OpStart
  /-- The model's own: the agent whose instruction is being executed (log 2). -/
  turn : Agent
  deriving DecidableEq, Repr

/-- No instruction of this hardware stops the machine: an error is an operation's outcome and "after any error the
block accepts further operations" (60_exceptions.md R258, R260). So there is no fault. -/
inductive Fault where
  deriving DecidableEq, Repr

inductive Refusal where
  /-- Raised by `exec` for an instruction without a meaning. Safe: the machine stops. No arm raises it. -/
  | notModelled (mnemonic : String)
  /-- Raised by `step` for a request whose bytes are no instruction (30_encoding.md R85, R88 give the host no such
  request; log 17). Safe: the machine stops. -/
  | badRequest (why : Reject)
  deriving DecidableEq, Repr

/-- What the next step has to do. -/
inductive Fetch where
  /-- An instruction, and the state without its bytes. -/
  | instr (i : Instr) (s : State)
  /-- The link met bytes that are no frame (43_link_model.md R228). -/
  | lost (s : State)
  /-- Nothing is requested (60_exceptions.md R265). -/
  | idle
  /-- A request that is no instruction. -/
  | bad (why : Reject)
  deriving DecidableEq, Repr

/-- Free bits: the `k` free values after the first `n`. -/
def freeBits (n k : Nat) : Bits := (List.range k).map fun i => Config.freeBit (n + i)

/-- The remote TAP anywhere, the line level unknown, every register any value, no response, nothing on the wire (R220). -/
def Link.unknown (c : Config) (n : Nat) : Link where
  poss := allTaps
  tms := none
  out := []
  irSh := freeBits n c.irLen
  drSh := freeBits (n + c.irLen) c.drLen
  irUpd := freeBits (n + c.irLen + c.drLen) c.irLen
  drUpd := freeBits (n + 2 * c.irLen + c.drLen) c.drLen
  wire := []
  torn := false
  free := n + 2 * c.irLen + 2 * c.drLen

/-- The state at power-on: R30 for the block, R220's unknown remote for the link (log 4, log 5). -/
def State.reset : State where
  cfg := Config.default
  session := .closed
  tap := .tlr
  buf := []
  carryV := false
  carryB := false
  dir := 0
  link := Link.unknown Config.default 0
  events := []
  reply := none
  inp := []
  prov := { preload := [], sample := [], extest := [], boundaryLength := 0 }
  requests := []
  began := { calls := 0, link := Link.unknown Config.default 0 }
  turn := .block

end Sys2Proof.Machine
end

