-- ==== Sys2Proof/Machine/Graph.lean ====
section
/-! DEFINITION. The TAP graph: the transition table, the path search and the events of a path
(spec/40_tap_fsm.md). Pure data, no port. -/

namespace Sys2Proof.Machine

/-- `NXT(s, e)`, the constant table of R112. -/
def nxt : Tap → Bool → Tap
  | .tlr, false => .rti
  | .tlr, true => .tlr
  | .rti, false => .rti
  | .rti, true => .seldr
  | .seldr, false => .capdr
  | .seldr, true => .selir
  | .capdr, false => .shdr
  | .capdr, true => .ex1dr
  | .shdr, false => .shdr
  | .shdr, true => .ex1dr
  | .ex1dr, false => .pdr
  | .ex1dr, true => .updr
  | .pdr, false => .pdr
  | .pdr, true => .ex2dr
  | .ex2dr, false => .shdr
  | .ex2dr, true => .updr
  | .updr, false => .rti
  | .updr, true => .seldr
  | .selir, false => .capir
  | .selir, true => .tlr
  | .capir, false => .shir
  | .capir, true => .ex1ir
  | .shir, false => .shir
  | .shir, true => .ex1ir
  | .ex1ir, false => .pir
  | .ex1ir, true => .upir
  | .pir, false => .pir
  | .pir, true => .ex2ir
  | .ex2ir, false => .shir
  | .ex2ir, true => .upir
  | .upir, false => .rti
  | .upir, true => .seldr

/-- `ENTRY(s)`: the TMS value of every edge into `s` (R114). -/
def entry : Tap → Bool
  | .tlr => true
  | .rti => false
  | .seldr => true
  | .capdr => false
  | .shdr => false
  | .ex1dr => true
  | .pdr => false
  | .ex2dr => true
  | .updr => true
  | .selir => true
  | .capir => false
  | .shir => false
  | .ex1ir => true
  | .pir => false
  | .ex2ir => true
  | .upir => true

/-- A stable state stays under the event that entered it (R117). -/
def stable (s : Tap) : Bool := nxt s (entry s) == s

/-- A shift state (00_scope.md R13). -/
def isShift (s : Tap) : Bool := s == .shdr || s == .shir

/-- Keep the shorter candidate; the first found wins a tie (R119). -/
def shorter (best p : Option (List Tap)) : Option (List Tap) :=
  match best, p with
  | best, none => best
  | none, some p => some p
  | some b, some p => if p.length < b.length then some p else some b

/-- `SEARCH(state, target, above)` of R119: depth first, edge 0 before edge 1, pruning self-loops and states already
on the path. `fuel` bounds the depth; a path has at most 16 states. -/
def search : Nat → Tap → Tap → List Tap → Option (List Tap)
  | 0, _, _, _ => none
  | fuel + 1, state, target, above =>
    if state = target then some (above ++ [state])
    else
      let along (e : Bool) : Option (List Tap) :=
        if nxt state e = state then none
        else if nxt state e ∈ above then none
        else search fuel (nxt state e) target (above ++ [state])
      shorter (shorter none (along false)) (along true)

/-- `PATH(source, target)` (R118, R119); `none` would be R122's malformed graph. -/
def findPath (target source : Tap) : Option (List Tap) := search 17 source target []

/-- The TMS values whose edge from `s` lands on `d`, edge 0 first (R123). -/
def edgesTo (s d : Tap) : Bits := [false, true].filter fun e => nxt s e == d

/-- The events of every consecutive pair of a path (R123). -/
def pathEdges : List Tap → Bits
  | s :: d :: rest => edgesTo s d ++ pathEdges (d :: rest)
  | [_] => []
  | [] => []

/-- `path_to_events` (R123): `none` is `PIE.InvalidPath`. The empty path has 0 events, not -1, and is invalid. -/
def pathToEvents (p : List Tap) : Option Bits :=
  if (pathEdges p).length + 1 = p.length then some (pathEdges p) else none

/-- The state after replaying events, left to right (R125). -/
def applyEvents (t : Tap) (ev : Bits) : Tap := ev.foldl nxt t

end Sys2Proof.Machine
end

