-- ==== Sys2Proof/Machine/Link.lean ====
section
/-! DEFINITION. The reference link and target of spec/43_link_model.md: what each frame does when it is read from
the wire, one clock at a time. -/

namespace Sys2Proof.Machine

/-- One free bit. -/
def Link.draw (l : Link) : Bool × Link := (Config.freeBit l.free, { l with free := l.free + 1 })

/-- Every target register any value (R224). -/
def Link.anyRegs (c : Config) (l : Link) : Link :=
  { l with
    irSh := freeBits l.free c.irLen
    drSh := freeBits (l.free + c.irLen) c.drLen
    irUpd := freeBits (l.free + c.irLen + c.drLen) c.irLen
    drUpd := freeBits (l.free + 2 * c.irLen + c.drLen) c.drLen
    free := l.free + 2 * c.irLen + 2 * c.drLen }

/-- A shift register on one clock: bit 0 out, `d` in at the top (R224). A register of no bits has no bit to show. -/
def shiftReg (r : Bits) (d : Bool) : Option Bool × Bits :=
  match r with
  | [] => (none, [])
  | b :: rest => (some b, rest ++ [d])

/-- The shift of a clock whose state before it is `s`, and the TDO value: outside a shift state any value (R224). -/
def Link.shift (s : Tap) (d : Bool) (l : Link) : Bool × Link :=
  if s = .shdr then
    match shiftReg l.drSh d with
    | (some b, r) => (b, { l with drSh := r })
    | (none, r) => { l with drSh := r }.draw
  else if s = .shir then
    match shiftReg l.irSh d with
    | (some b, r) => (b, { l with irSh := r })
    | (none, r) => { l with irSh := r }.draw
  else l.draw

/-- The actions on entering a state: capture (R232), update; entering TLR changes no register (R234). -/
def Link.enter (c : Config) (s : Tap) (l : Link) : Link :=
  if s = .capdr then { l with drSh := bitsOfNat c.drLen c.drCapture }
  else if s = .capir then { l with irSh := bitsOfNat c.irLen c.irCapture }
  else if s = .updr then { l with drUpd := l.drSh }
  else if s = .upir then { l with irUpd := l.irSh }
  else l

/-- The successors of a set of states, as a set. -/
def imageOf (poss : List Tap) (m : Bool) : List Tap := allTaps.filter fun t => poss.any fun s => nxt s m == t

/-- `CLOCK(m, d)` (R224): the TDO value and the link after it. -/
def Link.clock (c : Config) (m d : Bool) (l : Link) : Bool × Link :=
  match l.poss with
  | [s] =>
    let (tdo, l) := l.shift s d
    (tdo, { l.enter c (nxt s m) with poss := [nxt s m] })
  | poss => ({ l with poss := imageOf poss m }.anyRegs c).draw

/-- A clock that holds the TMS line (R222). With the level unknown the remote TAP may be anywhere after it (R224);
the registers and TDO are then any value (log 15). -/
def Link.dataClock (c : Config) (d : Bool) (l : Link) : Bool × Link :=
  match l.tms with
  | some m => l.clock c m d
  | none => ({ l with poss := allTaps }.anyRegs c).draw

/-- Data clocks, one for each TDI bit, with the TDO values. -/
def Link.dataClocks (c : Config) : Bits → Link → Bits × Link
  | [], l => ([], l)
  | d :: ds, l =>
    let (tdo, l) := l.dataClock c d
    let (rest, l) := l.dataClocks c ds
    (tdo :: rest, l)

/-- The clocks of a TMS frame: the events in order, the same TDI on each (R223). -/
def Link.tmsClocks (c : Config) (d : Bool) : Bits → Link → Link
  | [], l => l
  | m :: ms, l => (l.clock c m d).2.tmsClocks c d ms

/-- Append response bytes (R227). -/
def Link.respond (bs : List Byte) (l : Link) : Link := { l with out := l.out ++ bs }

/-- The response byte of an `RBITS` frame (R225). With MSB justification the low bits are 0, the reference link's value;
with LSB the high bits are "any value", free (log 6). -/
def Link.bitsResponse (c : Config) (v : Bits) (l : Link) : Byte × Link :=
  match c.readBitsJustify with
  | .msb => (pack8 (List.replicate (8 - v.length) false ++ v), l)
  | .lsb => (pack8 (v ++ freeBits l.free (8 - v.length)), { l with free := l.free + (8 - v.length) })

/-- `WBITS` on the wire (R222). -/
def Link.runWbits (c : Config) (b : Bits) (l : Link) : Link := (l.dataClocks c b).2

/-- `WBYTES` on the wire (R222). -/
def Link.runWbytes (c : Config) (b : Bits) (l : Link) : Link := (l.dataClocks c b).2

/-- `WTMS` on the wire: the line stays at the last event (R223). -/
def Link.runWtms (c : Config) (ev : Bits) (d : Bool) (l : Link) : Link :=
  { l.tmsClocks c d ev with tms := ev.getLast?.or l.tms }

/-- `RBITS` on the wire (R225). -/
def Link.runRbits (c : Config) (n : Nat) (l : Link) : Link :=
  let (v, l) := l.dataClocks c (List.replicate n c.readTdi)
  let (r, l) := l.bitsResponse c v
  l.respond [r]

/-- `RBYTES` on the wire (R226). -/
def Link.runRbytes (c : Config) (n : Nat) (l : Link) : Link :=
  let (v, l) := l.dataClocks c (List.replicate (8 * n) c.readTdi)
  l.respond (packBytes v)

/-- `RWBYTES` on the wire (R222). -/
def Link.runRwbytes (c : Config) (b : Bits) (l : Link) : Link :=
  let (v, l) := l.dataClocks c b
  l.respond (packBytes v)

/-- A frame on the wire. -/
def Link.runFrame (c : Config) : Frame → Link → Link
  | .wbits b => Link.runWbits c b
  | .wbytes b => Link.runWbytes c b
  | .wtms ev d => Link.runWtms c ev d
  | .rbits n => Link.runRbits c n
  | .rbytes n => Link.runRbytes c n
  | .rwbytes b => Link.runRwbytes c b

/-- Take `n` bytes off the front of the wire, across the bounds of the `TxWrite` calls (R221). -/
def dropBytes : Nat → List (List Byte) → List (List Byte)
  | _, [] => []
  | n, w :: ws => if n < w.length then w.drop n :: ws else dropBytes (n - w.length) ws

/-- The bytes on the wire as one stream (R221). -/
def Link.stream (l : Link) : List Byte := l.wire.flatten

/-- The wire with only the last `m` bytes of its stream left. -/
def Link.keep (m : Nat) (l : Link) : Link := { l with wire := dropBytes (l.stream.length - m) l.wire }

/-- The wire without the rest of the `TxWrite` whose byte comes next. -/
def dropChunk (w : List (List Byte)) : List (List Byte) := (w.dropWhile fun x => x.isEmpty).drop 1

/-- A byte at a frame start that equals no opcode: the rest of its `TxWrite` is discarded and the remote TAP may be anywhere
(R228). R228 names no register; with the remote state unknown they are any value (93_implementation_defined.md I18; log 28). -/
def Link.discard (c : Config) (l : Link) : Link := { l with poss := allTaps, wire := dropChunk l.wire }.anyRegs c

/-- A length field outside the layouts: the spec gives no clocks for it, so as R228, with the line level unknown
(log 13). -/
def Link.garble (c : Config) (l : Link) : Link := { l.discard c with tms := none }

/-- Interpret every complete frame on the wire (R227); each turn of the loop takes at least one byte. -/
def Link.settleN (c : Config) : Nat → Link → Link
  | 0, l => l
  | n + 1, l =>
    match decodeFrame c l.stream with
    | .ok (f, rest) => ((l.keep rest.length).runFrame c f).settleN c n
    | .error .truncated => l
    | .error .unknownOpcode => (l.discard c).settleN c n
    | .error _ => (l.garble c).settleN c n

def Link.settle (c : Config) (l : Link) : Link := l.settleN c l.stream.length

/-- A `TxWrite` hands its bytes to the link (R221). -/
def Link.deliver (bs : List Byte) (l : Link) : Link := { l with wire := l.wire ++ [bs] }

/-- `APPLY(L, bytes)` (R236): the link after it has interpreted what is on the wire and then `bytes`. -/
def Link.apply (c : Config) (bs : List Byte) (l : Link) : Link := (l.deliver bs).settle c

/-- The first `n` response bytes leave the link (R227). -/
def Link.takeOut (n : Nat) (l : Link) : List Byte × Link := (l.out.take n, { l with out := l.out.drop n })

/-- A session starts: the remote TAP anywhere, the level unknown, no response, the registers any value (R220). -/
def Link.start (c : Config) (l : Link) : Link := Link.unknown c l.free

/-- After a transport error the remote TAP may be anywhere and the registers hold any value (I8); the responses and the wire
stay. -/
def Link.lose (c : Config) (l : Link) : Link := { l with poss := allTaps, tms := none, torn := true }.anyRegs c

/-- After a failed call less than a frame on the wire is given up, so that the frame of the next `reset` is read from its
first byte (93_implementation_defined.md I8, R236; log 27). -/
def Link.cut (l : Link) : Link := if l.torn then { l with wire := [], torn := false } else l

/-- The asserted level of the reset pin in a pin value (R229). -/
def trstAsserted (c : Config) (v : PinMask) : Bool :=
  if c.trstActiveLow then v &&& c.pinTrst == 0 else v &&& c.pinTrst != 0

/-- `TxSetPins(v, d)` (R229): no clock. -/
def Link.setPins (c : Config) (v d : PinMask) (l : Link) : Link :=
  { l with
    tms := if d &&& c.pinTms != 0 then some (v &&& c.pinTms != 0) else l.tms
    poss := if d &&& c.pinTrst != 0 && c.targetHasTrst && trstAsserted c v then [.tlr] else l.poss }

/-- A pin change: the bytes handed over before are interpreted before (20_memory.md R54; log 12). -/
def Link.changePins (c : Config) (v d : PinMask) (l : Link) : Link := (l.settle c).cut.setPins c v d

end Sys2Proof.Machine
end

