-- ==== Sys2Proof/Machine/Ops.lean ====
section
/-! DEFINITION. The shared operations: an operation's two ways to end, the one delivery of an outcome (what this block
has in place of taking an exception, spec/60_exceptions.md R258), the one transport failure (spec/41_framing.md R141),
the transport calls (spec/20_memory.md R50), the output buffer, and fetching. -/

namespace Sys2Proof

/-- `a & ~b` over `w` bits. -/
def PinMask.without (w : Nat) (a b : PinMask) : PinMask := (BitVec.ofNat w a &&& ~~~(BitVec.ofNat w b)).toNat

end Sys2Proof

namespace Sys2Proof.Machine

/-! ## How an operation ends -/

/-- A part of an operation ends with a value, or with an error; either way with a state (R256, R257). -/
inductive Res (α : Type) where
  | ok (a : α) (s : State)
  | err (e : Err) (s : State)

/-- Go on after a part that succeeded; an error ends the operation (R257). -/
def Res.bind {α β : Type} (r : Res α) (f : α → State → Res β) : Res β :=
  match r with
  | .ok a s => f a s
  | .err e s => .err e s

/-- Checks come before effects and the first that fails is the one reported, with nothing changed (R255, R256). -/
def check {α : Type} (errs : List (Option Err)) (s : State) (k : State → Res α) : Res α :=
  match errs.findSome? id with
  | some e => .err e s
  | none => k s

/-- The outcome of an operation goes to its host: the result, or the error in its place. Nothing is saved and no
control is redirected (R258). Every outcome is a next state, since the block goes on (R260). -/
def deliver {α : Type} (v : α → Value) (r : Res α) : Host.Outcome State Fault Refusal :=
  match r with
  | .ok a s => .next { s with reply := some (.ok (v a)) }
  | .err e s => .next { s with reply := some (.error e) }

/-- The result `-` of R85. -/
def noValue (_ : Unit) : Value := .none

/-! ## Error kinds and codes (R250 to R253) -/

/-- The kind code (R250). -/
def Err.kindCode : Err → Nat
  | .te _ => 1
  | .pie _ => 2
  | .cme _ => 3

/-- The cause code within its kind (R251, R252, R253). -/
def Err.causeCode : Err → Nat
  | .te .openFailed => 1
  | .te .writeFailed => 2
  | .te .readFailed => 3
  | .te .shortRead => 4
  | .te .pinsFailed => 5
  | .te .closeFailed => 6
  | .pie (.frameTooLarge _) => 1
  | .pie (.bitCount _) => 2
  | .pie (.byteAlign _) => 3
  | .pie .emptyWrite => 4
  | .pie (.tmsLength _) => 5
  | .pie (.readBitsBound _) => 6
  | .pie (.readBytesBound _) => 7
  | .pie .carryPending => 8
  | .pie (.invalidPath _) => 9
  | .pie (.noPath _) => 10
  | .pie (.providerValue _) => 11
  | .cme .sessionClosed => 1
  | .cme .alreadyOpen => 2

/-! ## Transport calls -/

/-- The event of a call, at the end of the list (20_memory.md R50, R52). -/
def State.record (e : TxEvent) (s : State) : State := { s with events := s.events ++ [e] }

/-- The transport's answer to the next call (R29); with none given the call is served (log 7). -/
def State.answer (s : State) : TxAnswer := s.inp.headD .served

/-- The answer is used up. -/
def State.popAnswer (s : State) : State := { s with inp := s.inp.tail }

/-- Whether the next call fails. -/
def State.callFails (s : State) : Bool := s.answer == .fail

/-- What a call of the failing operation did to the link, `n` its number: of a `TxWrite` from none to all of its bytes
arrived, in order (93_implementation_defined.md I7, 70_reset_and_hazards.md R293); a failed `TxRead` took some of the
responses; a call that completed did what it does. -/
def Link.replay (c : Config) (n : Nat) (l : Link) : TxEvent → Link
  | .txOpen _ _ _ _ _ none => l
  | .txOpen _ _ _ _ _ (some _) => l.start c
  | .setPins _ _ false => l
  | .setPins v d true => l.changePins c v d
  | .write bs _ => l.deliver (bs.take (Config.freeCut n))
  | .read k none => ((l.settle c).takeOut (min k (Config.freeCut n))).2
  | .read k (some _) => ((l.settle c).takeOut k).2
  | .txClose _ => l
  | .delay _ => l

/-- The calls of the failing operation in order, numbered from `n` on. -/
def Link.replayAll (c : Config) : Nat → Link → List TxEvent → Link
  | _, l, [] => l
  | n, l, e :: es => (l.replay c n e).replayAll c (n + 1) es

/-- The calls of the current operation, oldest first. -/
def State.calls (s : State) : List TxEvent := s.events.drop s.began.calls

/-- The link after a transport error: what earlier operations sent has arrived, what this one sent has arrived in part, and
the responses are those of the frames that did (R293, 20_memory.md R58; log 9). -/
def State.lostLink (s : State) : Link :=
  ((({ s.began.link with free := s.link.free + s.calls.length }.replayAll s.cfg s.link.free s.calls).settle s.cfg).lose
    s.cfg)

/-- `TRANSPORT_FAIL(cause)` (41_framing.md R141): buffer and carry discarded; pointer, session and mask kept; of the
remote nothing is known. -/
def transportFail {α : Type} (cause : TeCause) (s : State) : Res α :=
  .err (.te cause) { s with buf := [], carryV := false, carryB := false, link := s.lostLink }

/-- `TX(TxWrite(bytes))`. -/
def txWrite (bs : List Byte) (s : State) : Res Unit :=
  if s.callFails then transportFail .writeFailed (s.popAnswer.record (.write bs false))
  else .ok () { s.popAnswer.record (.write bs true) with link := s.link.deliver bs }

/-- The bytes a `TxRead(n)` returns once the link has interpreted the wire: the given ones, else the link's
(43_link_model.md R227, 10_state.md R29; log 8). -/
def readAnswer (n : Nat) (l : Link) : TxAnswer → List Byte
  | .bytes b => b
  | .served => (l.takeOut n).1
  | .freq _ => (l.takeOut n).1
  | .fail => []

/-- `TX(TxRead(n))`: another number of bytes than n is a failure (20_memory.md R51). -/
def txRead (n : Nat) (s : State) : Res (List Byte) :=
  let l := s.link.settle s.cfg
  if s.callFails then transportFail .readFailed ({ s with link := l }.popAnswer.record (.read n none))
  else
    let bs := readAnswer n l s.answer
    let s := { s with link := (l.takeOut n).2 }.popAnswer.record (.read n (some bs))
    if bs.length = n then .ok bs s else transportFail .shortRead s

/-- `TX(TxSetPins(v, S.dir))`: see `Link.changePins`. -/
def txSetPins (v : PinMask) (s : State) : Res Unit :=
  if s.callFails then transportFail .pinsFailed (s.popAnswer.record (.setPins v s.dir false))
  else .ok () { s.popAnswer.record (.setPins v s.dir true) with
    link := s.link.changePins s.cfg v s.dir }

/-- The frequency a `TxOpen` answers: any value (93_implementation_defined.md I17; log 19). -/
def openFreq (n : Nat) : TxAnswer → Nat
  | .freq f => f
  | .served => Config.freeFreq n
  | .bytes _ => Config.freeFreq n
  | .fail => 0

/-- `TX(TxOpen(...))`: on failure the block's state is unchanged (42_engine.md R180; log 10). -/
def txOpen (vid pid idx : Nat) (dir : PinMask) (freq : Nat) (s : State) : Res Nat :=
  if s.callFails then
    let s := s.popAnswer.record (.txOpen vid pid idx dir freq none)
    .err (.te .openFailed) { s with link := s.lostLink }
  else
    let f := openFreq s.link.free s.answer
    .ok f { s.popAnswer.record (.txOpen vid pid idx dir freq (some f)) with
      link := { s.link with free := s.link.free + 1 }.start s.cfg }

/-- `TX(TxClose())`. -/
def txClose (s : State) : Res Unit :=
  if s.callFails then transportFail .closeFailed (s.popAnswer.record (.txClose false))
  else .ok () (s.popAnswer.record (.txClose true))

/-- `Delay(SETTLE_DELAY)`: an event and nothing else (70_reset_and_hazards.md R298). -/
def delay (s : State) : State := s.record (.delay s.cfg.settleDelay)

/-! ## The output buffer (the block's memory, 20_memory.md R41; log 18) -/

/-- `MemRead(a, n)` (R41). -/
def memRead (a n : Nat) (s : State) : List Byte := (s.buf.drop a).take n

/-- `BufAppend(f)` (R41). -/
def bufAppend (f : List Byte) (s : State) : State := { s with buf := s.buf ++ f }

/-- `FLUSH()` (41_framing.md R144). -/
def flushBuf (s : State) : Res Unit :=
  if 0 < s.buf.length then
    (txWrite (memRead 0 s.buf.length s) s).bind fun _ s => .ok () { s with buf := [] }
  else .ok () s

/-- `len(f) > MAX_FRAME` (41_framing.md R142). -/
def frameErr (c : Config) (len : Nat) : Option Err :=
  if c.maxFrame < len then some (.pie (.frameTooLarge len)) else none

/-- `QUEUE(f)` (41_framing.md R142). -/
def queueBytes (f : List Byte) (s : State) : Res Unit :=
  check [frameErr s.cfg f.length] s fun s =>
    (if s.cfg.maxFrame < s.buf.length + f.length then flushBuf s else .ok () s).bind fun _ s =>
      .ok () (bufAppend f s)

/-- Queue one frame of the six kinds. -/
def emit (f : Frame) (s : State) : Res Unit := queueBytes (encodeFrame s.cfg f) s

/-- `CHECK_OPEN` (41_framing.md R140). -/
def sessionErr (s : State) : Option Err :=
  if s.session = .opened then none else some (.cme .sessionClosed)

/-! ## Fetching -/

/-- The state in which the link runs the frame it has just taken off the wire; `left` bytes stay (R221). -/
def State.fetchFrame (left : Nat) (s : State) : State := { s with link := s.link.keep left, turn := .link }

/-- The state in which the block runs a request, with the inputs of that step (10_state.md R29). An operation begins. -/
def State.fetchRequest (r : Request) (rest : List Request) (s : State) : State :=
  { s with
    requests := rest, inp := r.answers, prov := r.prov, turn := .block
    began := { calls := s.events.length, link := s.link } }

/-- The block's next request (10_state.md R27): its bytes are one instruction, or it is refused (log 17). -/
def fetchFromHost (s : State) : Fetch :=
  match s.requests with
  | [] => .idle
  | r :: rest =>
    match decode s.cfg r.form r.bytes with
    | .ok (i, []) => .instr i (s.fetchRequest r rest)
    | .ok (_, _ :: _) => .bad .badOperand
    | .error e => .bad e

/-- What comes next: a complete frame on the wire is the link's; bytes that are no frame are discarded (R228); else
the host's next request (log 2, log 12). -/
def fetch (s : State) : Fetch :=
  match decodeFrame s.cfg s.link.stream with
  | .ok (f, rest) => .instr f.toInstr (s.fetchFrame rest.length)
  | .error .truncated => fetchFromHost s
  | .error .unknownOpcode => .lost { s with link := s.link.discard s.cfg }
  | .error _ => .lost { s with link := s.link.garble s.cfg }

/-- The bytes of the first frame of a byte list. -/
def firstFrame (c : Config) (bs : List Byte) : List Byte :=
  match decodeFrame c bs with
  | .ok (f, _) => bs.take f.size
  | .error _ => bs

/-- The wire with these bytes before everything on it. -/
def State.withWire (bs : List Byte) (s : State) : State := { s with link := { s.link with wire := bs :: s.link.wire } }

/-- A frame on the link's turn: its clocks, and nothing of the block (43_link_model.md R221). -/
def runOnLink (f : Frame) (s : State) : State := { s with link := s.link.runFrame s.cfg f }

end Sys2Proof.Machine
end

