-- ==== Sys2Proof/Machine/Flags.lean ====
section
/-! DEFINITION. The block's only flag, the deferred carry (spec/10_state.md R23, R24; spec/41_framing.md R140, R151,
R154, R156). -/

namespace Sys2Proof.Machine

/-- `CHECK_CARRY` (R140). -/
def carryErr (s : State) : Option Err :=
  if s.cfg.carryPolicy = .enforce ∧ s.carryV = true then some (.pie .carryPending) else none

/-- `S.carry_b <- b; S.carry_v <- 1` (R151). -/
def setCarry (b : Bool) (s : State) : State := { s with carryV := true, carryB := b }

/-- `S.carry_v <- 0; S.carry_b <- 0` (R154). -/
def clearCarry (s : State) : State := { s with carryV := false, carryB := false }

/-- The TDI value of a TMS frame: the pending carry, else the default (R154). -/
def tdiSlot (s : State) : Bool := if s.carryV then s.carryB else s.cfg.tmsTdiDefault

end Sys2Proof.Machine
end

