-- ==== Sys2Proof/Machine/Operands.lean ====
section
/-! DEFINITION. The argument checks of the operations and how an operand is cut into frames and a response put
together (spec/41_framing.md, spec/42_engine.md, spec/60_exceptions.md R251). -/

namespace Sys2Proof.Machine

/-! ## Argument checks: `none` where the argument is accepted -/

/-- `write_bits` (R145). -/
def bitCountErr (c : Config) (b : Bits) : Option Err :=
  if b.length < 1 ∨ c.writeBitsMax < b.length then some (.pie (.bitCount b.length)) else none

/-- A sequence of whole bytes, at least one (R147, R163). -/
def byteAlignErr (b : Bits) : Option Err :=
  if b.length = 0 ∨ b.length % 8 ≠ 0 then some (.pie (.byteAlign b.length)) else none

/-- A frame of `n` payload bytes (R147, R149, R163). -/
def payloadErr (c : Config) (n : Nat) : Option Err := frameErr c (3 + n)

/-- `write` and every operation that writes a register: not empty, and the byte part fits one frame (R151, R184). -/
def writeErr (c : Config) (b : Bits) : Option Err :=
  if b.length = 0 then some (.pie .emptyWrite)
  else if 0 < (b.length - 1) / 8 then payloadErr c ((b.length - 1) / 8)
  else none

/-- `write_tms` (R154). -/
def tmsErr (c : Config) (ev : Bits) : Option Err :=
  if ev.length < 1 ∨ c.tmsMaxEvents < ev.length then some (.pie (.tmsLength ev.length)) else none

/-- `read_bits` (R157). -/
def readBitsErr (c : Config) (n : Nat) : Option Err :=
  if n < 1 ∨ c.readBitsMax < n then some (.pie (.readBitsBound n)) else none

/-- `read_bytes` (R159). -/
def readBytesErr (c : Config) (n : Nat) : Option Err :=
  if n < 1 ∨ c.readBytesMax < n then some (.pie (.readBytesBound n)) else none

/-- `read` and every operation that reads `n` bits: the byte part is bounded, zero is not refused (R161, R186). -/
def readErr (c : Config) (n : Nat) : Option Err :=
  if c.readBytesMax < n / 8 then some (.pie (.readBytesBound (n / 8))) else none

/-- A boundary length is not negative (42_engine.md R192). -/
def lengthErr (len : Int) : Option Err := if len < 0 then some (.pie (.providerValue len)) else none

/-- `open` in an open session (42_engine.md R180). -/
def alreadyOpenErr (s : State) : Option Err := if s.session = .opened then some (.cme .alreadyOpen) else none

/-- The checks of a facility operation: the session first; the carry before the arguments or after them (log 26). -/
def facilityErrs (s : State) (args : List (Option Err)) : List (Option Err) :=
  match s.cfg.facilityOrder with
  | .carryFirst => sessionErr s :: carryErr s :: args
  | .argumentsFirst => sessionErr s :: (args ++ [carryErr s])

/-! ## Cutting operands -/

/-- The bits of a `write` sent now: all but the last (R151). -/
def sentBits (b : Bits) : Bits := b.take (b.length - 1)

/-- The whole-byte prefix of a sequence (R151). -/
def bytePart (b : Bits) : Bits := b.take (8 * (b.length / 8))

/-- The residual of at most 7 bits (R151). -/
def bitPart (b : Bits) : Bits := b.drop (8 * (b.length / 8))

/-- The deferred bit of a `write`: its last (R151). -/
def lastBit (b : Bits) : Bool := b.getLastD false

/-- A sequence in pieces of at most `n`, in order (42_engine.md R182); `fuel` bounds their number (log 23). -/
def chunks : Nat → Nat → Bits → List Bits
  | 0, _, _ => []
  | fuel + 1, n, ev => if ev = [] then [] else ev.take n :: chunks fuel n (ev.drop n)

/-- The n bits of a read-bits response (30_encoding.md R84). -/
def justified (c : Config) (n : Nat) (r : Byte) : Bits :=
  match c.readBitsJustify with
  | .msb => (List.range n).map fun i => r.getLsbD (8 - n + i)
  | .lsb => unpack8 r n

/-- The pin value that asserts the reset pin (42_engine.md R187). -/
def assertPins (c : Config) : PinMask :=
  if c.trstActiveLow then c.pinIdle.without c.dirWidth c.pinTrst else c.pinIdle ||| c.pinTrst

/-- The pin value that deasserts it (42_engine.md R187). -/
def deassertPins (c : Config) : PinMask :=
  if c.trstActiveLow then c.pinIdle ||| c.pinTrst else c.pinIdle.without c.dirWidth c.pinTrst

end Sys2Proof.Machine
end

