-- ==== Sys2Proof/Machine/Inner.lean ====
section
/-! DEFINITION. The inner forms the operations share: the bodies that spec/41_framing.md and spec/42_engine.md write
in capitals, which skip the session check already made. -/

namespace Sys2Proof.Machine

/-- `EMIT_BITS(b)` where there are bits to send (41_framing.md R145, R151). -/
def emitBits (b : Bits) (s : State) : Res Unit := if b = [] then .ok () s else emit (.wbits b) s

/-- `EMIT_BYTES(b)` where there are bytes to send (R147, R151). -/
def emitBytes (b : Bits) (s : State) : Res Unit := if b = [] then .ok () s else emit (.wbytes b) s

/-- `WRITE(b)` (R151): all but the last bit sent, the last one deferred. -/
def writeSeq (b : Bits) (s : State) : Res Unit :=
  check [writeErr s.cfg b, carryErr s] s fun s =>
    (emitBytes (bytePart (sentBits b)) s).bind fun _ s =>
      (emitBits (bitPart (sentBits b)) s).bind fun _ s => .ok () (setCarry (lastBit b) s)

/-- `WRITE_TMS(ev)` (R154). -/
def writeTms (ev : Bits) (s : State) : Res Unit :=
  check [tmsErr s.cfg ev] s fun s =>
    (emit (.wtms ev (tdiSlot s)) s).bind fun _ s => .ok () (clearCarry s)

/-- A read frame, a flush, then its response (20_memory.md R55). -/
def exchange (f : Frame) (n : Nat) (s : State) : Res (List Byte) :=
  (emit f s).bind fun _ s => (flushBuf s).bind fun _ s => txRead n s

/-- `READ_BITS(n)` (R157). -/
def readBits (n : Nat) (s : State) : Res Bits :=
  (exchange (.rbits n) 1 s).bind fun r s => .ok (justified s.cfg n (r.headD 0#8)) s

/-- `READ_BYTES(n)` (R159). -/
def readBytes (n : Nat) (s : State) : Res Bits :=
  (exchange (.rbytes n) n s).bind fun r s => .ok (unpackBytes r) s

/-- A read of no units makes no call (R161). -/
def readIf (n : Nat) (k : Nat → State → Res Bits) (s : State) : Res Bits := if 0 < n then k n s else .ok [] s

/-- `READ(n)` (R161): the byte part, then the residual bits. -/
def readSeq (n : Nat) (s : State) : Res Bits :=
  check [readErr s.cfg n, carryErr s] s fun s =>
    (readIf (n / 8) readBytes s).bind fun a s =>
      (readIf (n % 8) readBits s).bind fun b s => .ok (a ++ b) s

/-- `WRITE_TMS` for each piece of a route (42_engine.md R182). -/
def sendTms : List Bits → State → Res Unit
  | [], s => .ok () s
  | ev :: rest, s => (writeTms ev s).bind fun _ s => sendTms rest s

/-- The events from one state to another: `find_path`, then `path_to_events`. -/
def route (source target : Tap) : Except Err Bits :=
  match findPath target source with
  | none => .error (.pie (.noPath target))
  | some p =>
    match pathToEvents p with
    | none => .error (.pie (.invalidPath p))
    | some ev => .ok ev

/-- `CHANGE_STATE(t)` (42_engine.md R182): the pointer moves when the frames are queued. -/
def changeState (t : Tap) (s : State) : Res Unit :=
  match route s.tap t with
  | .error e => .err e s
  | .ok ev =>
    (sendTms (chunks ev.length s.cfg.tmsMaxEvents ev) s).bind fun _ s => .ok () { s with tap := applyEvents s.tap ev }

/-- Enter a shift state, write, leave to an update state (42_engine.md R184, R185). -/
def writeReg (shift update : Tap) (b : Bits) (s : State) : Res Unit :=
  (changeState shift s).bind fun _ s => (writeSeq b s).bind fun _ s => changeState update s

/-- `WRITE_IR(b)` (42_engine.md R184). -/
def writeIr (b : Bits) (s : State) : Res Unit := writeReg .shir .upir b s

/-- `WRITE_DR(b)` (42_engine.md R185). -/
def writeDr (b : Bits) (s : State) : Res Unit := writeReg .shdr .updr b s

/-- `READ_DR(n)` (42_engine.md R186). -/
def readDr (n : Nat) (s : State) : Res Bits :=
  (changeState .shdr s).bind fun _ s =>
    (readSeq n s).bind fun r s => (changeState .updr s).bind fun _ s => .ok r s

/-- Load an instruction, write the data register, go idle (42_engine.md R191, R193). -/
def loadAndWrite (pattern b : Bits) (s : State) : Res Unit :=
  (writeIr pattern s).bind fun _ s => (writeDr b s).bind fun _ s => changeState .rti s

/-- `READ_DR(n)`, then go idle (42_engine.md R190, R192, R194). -/
def readDrThenIdle (n : Nat) (s : State) : Res Bits :=
  (readDr n s).bind fun r s => (changeState .rti s).bind fun _ s => .ok r s

end Sys2Proof.Machine
end

