-- ==== Sys2Proof/Machine/Engine.lean ====
section
/-! DEFINITION. The meanings of the JtagEngine operations (spec/42_engine.md). -/

namespace Sys2Proof.Machine

/-- `open(...)` (R180): the session opens, the mask is set, the pointer says TLR. -/
def execOpenSession (vid pid idx : Nat) (dir : PinMask) (freq : Nat) (s : State) :
    Host.Outcome State Fault Refusal :=
  deliver Value.freq
    (check [alreadyOpenErr s] s fun s =>
      (txOpen vid pid idx dir freq s).bind fun f s =>
        .ok f (clearCarry { s with session := .opened, dir := dir, buf := [], tap := .tlr }))

/-- `close()` (R181). -/
def execClose (s : State) : Host.Outcome State Fault Refusal :=
  deliver noValue
    (check [sessionErr s, carryErr s] s fun s =>
      (flushBuf s).bind fun _ s => (txClose (clearCarry s)).bind fun _ s => .ok () { s with session := .closed })

/-- `change_state(t)` (R182). -/
def execChangeState (t : Tap) (s : State) : Host.Outcome State Fault Refusal :=
  deliver noValue (check [sessionErr s] s (changeState t))

/-- `go_idle()` (R183). -/
def execGoIdle (s : State) : Host.Outcome State Fault Refusal :=
  deliver noValue (check [sessionErr s] s (changeState .rti))

/-- `write_ir(b)` (R184). -/
def execWriteIr (b : Bits) (s : State) : Host.Outcome State Fault Refusal :=
  deliver noValue (check [sessionErr s, writeErr s.cfg b, carryErr s] s (writeIr b))

/-- `write_dr(b)` (R185). -/
def execWriteDr (b : Bits) (s : State) : Host.Outcome State Fault Refusal :=
  deliver noValue (check [sessionErr s, writeErr s.cfg b, carryErr s] s (writeDr b))

/-- `read_dr(n)` (R186). -/
def execReadDr (n : Nat) (s : State) : Host.Outcome State Fault Refusal :=
  deliver Value.bits (check [sessionErr s, readErr s.cfg n, carryErr s] s (readDr n))

/-- `reset()` (R187): the pins, then five TMS = 1 events, then the pointer; the carry is not checked. -/
def execReset (s : State) : Host.Outcome State Fault Refusal :=
  deliver noValue
    (check [sessionErr s] s fun s =>
      (flushBuf s).bind fun _ s =>
        (txSetPins (assertPins s.cfg) s).bind fun _ s =>
          (txSetPins (deassertPins s.cfg) (delay s)).bind fun _ s =>
            (writeTms (List.replicate 5 true) (delay s)).bind fun _ s =>
              (flushBuf s).bind fun _ s => .ok () { s with tap := .tlr })

/-- `idcode()` (R190): no instruction is loaded. -/
def execIdcode (s : State) : Host.Outcome State Fault Refusal :=
  deliver (fun r => Value.int (natOfBits r)) (check [sessionErr s, carryErr s] s (readDrThenIdle 32))

/-- `preload(b)` (R191): the instruction's check before the data's (log 20), the carry before or after both (log 26). -/
def execPreload (b : Bits) (s : State) : Host.Outcome State Fault Refusal :=
  deliver noValue
    (check (facilityErrs s [writeErr s.cfg s.prov.preload, writeErr s.cfg b]) s (loadAndWrite s.prov.preload b))

/-- `sample()` (R192): the length's sign, the pattern, then the length's bound; the carry before or after them (log 26). -/
def execSample (s : State) : Host.Outcome State Fault Refusal :=
  deliver Value.bits
    (check
      (facilityErrs s [lengthErr s.prov.boundaryLength, writeErr s.cfg s.prov.sample,
        readErr s.cfg s.prov.boundaryLength.toNat]) s fun s =>
      (writeIr s.prov.sample s).bind fun _ s => readDrThenIdle s.prov.boundaryLength.toNat s)

/-- `extest(b)` (R193), its checks as those of `preload` (log 20, log 26). -/
def execExtest (b : Bits) (s : State) : Host.Outcome State Fault Refusal :=
  deliver noValue
    (check (facilityErrs s [writeErr s.cfg s.prov.extest, writeErr s.cfg b]) s (loadAndWrite s.prov.extest b))

/-- `readback()` (R194): no instruction is loaded; the carry before or after the length's checks (log 26). -/
def execReadback (s : State) : Host.Outcome State Fault Refusal :=
  deliver Value.bits
    (check (facilityErrs s [lengthErr s.prov.boundaryLength, readErr s.cfg s.prov.boundaryLength.toNat]) s
      (readDrThenIdle s.prov.boundaryLength.toNat))

end Sys2Proof.Machine
end

