-- ==== Sys2Proof/Machine/Framing.lean ====
section
/-! DEFINITION. The meanings of the TapFraming operations (spec/41_framing.md). Each lists its checks in the order of
spec/60_exceptions.md R255: session, arguments, carry. -/

namespace Sys2Proof.Machine

/-- `queue(f)` (R142, R143): any bytes, not inspected. -/
def execQueue (f : List Byte) (s : State) : Host.Outcome State Fault Refusal :=
  deliver noValue (check [sessionErr s] s (queueBytes f))

/-- `flush()` (R144). -/
def execFlush (s : State) : Host.Outcome State Fault Refusal :=
  deliver noValue (check [sessionErr s] s flushBuf)

/-- `write_bits(b)` (R145). -/
def execWriteBits (b : Bits) (s : State) : Host.Outcome State Fault Refusal :=
  deliver noValue (check [sessionErr s, bitCountErr s.cfg b, carryErr s] s (emit (.wbits b)))

/-- `write_bytes(b)` (R147). -/
def execWriteBytes (b : Bits) (s : State) : Host.Outcome State Fault Refusal :=
  deliver noValue
    (check [sessionErr s, byteAlignErr b, payloadErr s.cfg (b.length / 8), carryErr s] s (emit (.wbytes b)))

/-- `write(b)` (R151). -/
def execWrite (b : Bits) (s : State) : Host.Outcome State Fault Refusal :=
  deliver noValue (check [sessionErr s] s (writeSeq b))

/-- `write_tms(ev)` (R154): the pointer does not move. -/
def execWriteTms (ev : Bits) (s : State) : Host.Outcome State Fault Refusal :=
  deliver noValue (check [sessionErr s] s (writeTms ev))

/-- `read_bits(n)` (R157). -/
def execReadBits (n : Nat) (s : State) : Host.Outcome State Fault Refusal :=
  deliver Value.bits (check [sessionErr s, readBitsErr s.cfg n, carryErr s] s (readBits n))

/-- `read_bytes(n)` (R159). -/
def execReadBytes (n : Nat) (s : State) : Host.Outcome State Fault Refusal :=
  deliver Value.bits (check [sessionErr s, readBytesErr s.cfg n, carryErr s] s (readBytes n))

/-- `read(n)` (R161). -/
def execRead (n : Nat) (s : State) : Host.Outcome State Fault Refusal :=
  deliver Value.bits (check [sessionErr s] s (readSeq n))

/-- `shift_bytes(b)` (R163): every bit is sent, none deferred. -/
def execShiftBytes (b : Bits) (s : State) : Host.Outcome State Fault Refusal :=
  deliver Value.bits
    (check [sessionErr s, byteAlignErr b, payloadErr s.cfg (b.length / 8), carryErr s] s fun s =>
      (exchange (.rwbytes b) (b.length / 8) s).bind fun r s => .ok (unpackBytes r) s)

end Sys2Proof.Machine
end

