-- ==== Sys2Proof/Machine/Frames.lean ====
section
/-! DEFINITION. The meanings of the six frame rows. On the link's turn a frame read from the wire is a number of
clocks (spec/43_link_model.md R221). On the block's turn it is a host's request in the binary form of a primitive:
the operation that spec/opcode_table.json names as the row's `semantics_rule`, whose "Encoding" the frame is
(spec/41_framing.md; log 2). -/

namespace Sys2Proof.Machine

/-- `WBITS`: R222; as a request `write_bits`, R145. -/
def execWbits (b : Bits) (s : State) : Host.Outcome State Fault Refusal :=
  match s.turn with
  | .link => .next (runOnLink (.wbits b) s)
  | .block => execWriteBits b s

/-- `WBYTES`: R222; as a request `write_bytes`, R147. -/
def execWbytes (b : Bits) (s : State) : Host.Outcome State Fault Refusal :=
  match s.turn with
  | .link => .next (runOnLink (.wbytes b) s)
  | .block => execWriteBytes b s

/-- `WTMS`: R223; as a request `write_tms`, R154, which fills the TDI slot itself, from the carry or the default. -/
def execWtms (ev : Bits) (d : Bool) (s : State) : Host.Outcome State Fault Refusal :=
  match s.turn with
  | .link => .next (runOnLink (.wtms ev d) s)
  | .block => execWriteTms ev s

/-- `RBITS`: R225; as a request `read_bits`, R157. -/
def execRbits (n : Nat) (s : State) : Host.Outcome State Fault Refusal :=
  match s.turn with
  | .link => .next (runOnLink (.rbits n) s)
  | .block => execReadBits n s

/-- `RBYTES`: R226; as a request `read_bytes`, R159. -/
def execRbytes (n : Nat) (s : State) : Host.Outcome State Fault Refusal :=
  match s.turn with
  | .link => .next (runOnLink (.rbytes n) s)
  | .block => execReadBytes n s

/-- `RWBYTES`: R222; as a request `shift_bytes`, R163. -/
def execRwbytes (b : Bits) (s : State) : Host.Outcome State Fault Refusal :=
  match s.turn with
  | .link => .next (runOnLink (.rwbytes b) s)
  | .block => execShiftBytes b s

end Sys2Proof.Machine
end

