-- ==== Sys2Proof/Machine/TapGraph.lean ====
section
/-! DEFINITION. The meanings of the TapGraph operations (spec/40_tap_fsm.md). They make no transport call and work in
either session state (spec/30_encoding.md R87). -/

namespace Sys2Proof.Machine

/-- `current_state` (R115). -/
def execCurrentState (s : State) : Host.Outcome State Fault Refusal := deliver Value.state (.ok s.tap s)

/-- `G.reset` (R116): logical only, no transport call. -/
def execGReset (s : State) : Host.Outcome State Fault Refusal := deliver noValue (.ok () { s with tap := .tlr })

/-- `find_path(target, source = S.tap)` (R118); `PIE.NoPath` if the search finds none (R122). -/
def execFindPath (target : Tap) (source : Option Tap) (s : State) : Host.Outcome State Fault Refusal :=
  deliver Value.path <|
    match findPath target (source.getD s.tap) with
    | some p => .ok p s
    | none => .err (.pie (.noPath target)) s

/-- `path_to_events(path)` (R123). -/
def execPathToEvents (path : List Tap) (s : State) : Host.Outcome State Fault Refusal :=
  deliver Value.bits <|
    match pathToEvents path with
    | some ev => .ok ev s
    | none => .err (.pie (.invalidPath path)) s

/-- `apply_events(events)` (R125): the pointer moves, nothing is sent. -/
def execApplyEvents (ev : Bits) (s : State) : Host.Outcome State Fault Refusal :=
  deliver noValue (.ok () { s with tap := applyEvents s.tap ev })

end Sys2Proof.Machine
end

