-- ==== Sys2Proof/Machine/Dispatch.lean ====
section
/-! DEFINITION. The meaning of every instruction: one arm per constructor. -/

namespace Sys2Proof.Machine

def exec (i : Instr) (s : State) : Host.Outcome State Fault Refusal :=
  match i with
  | .wbits b => Sys2Proof.Machine.execWbits b s
  | .wbytes b => Sys2Proof.Machine.execWbytes b s
  | .wtms ev d => Sys2Proof.Machine.execWtms ev d s
  | .rbits n => Sys2Proof.Machine.execRbits n s
  | .rbytes n => Sys2Proof.Machine.execRbytes n s
  | .rwbytes b => Sys2Proof.Machine.execRwbytes b s
  | .currentState => Sys2Proof.Machine.execCurrentState s
  | .gReset => Sys2Proof.Machine.execGReset s
  | .findPath target source => Sys2Proof.Machine.execFindPath target source s
  | .pathToEvents path => Sys2Proof.Machine.execPathToEvents path s
  | .applyEvents ev => Sys2Proof.Machine.execApplyEvents ev s
  | .queue f => Sys2Proof.Machine.execQueue f s
  | .flush => Sys2Proof.Machine.execFlush s
  | .writeBits b => Sys2Proof.Machine.execWriteBits b s
  | .writeBytes b => Sys2Proof.Machine.execWriteBytes b s
  | .write b => Sys2Proof.Machine.execWrite b s
  | .writeTms ev => Sys2Proof.Machine.execWriteTms ev s
  | .readBits n => Sys2Proof.Machine.execReadBits n s
  | .readBytes n => Sys2Proof.Machine.execReadBytes n s
  | .read n => Sys2Proof.Machine.execRead n s
  | .shiftBytes b => Sys2Proof.Machine.execShiftBytes b s
  | .openSession vid pid idx dir freq => Sys2Proof.Machine.execOpenSession vid pid idx dir freq s
  | .close => Sys2Proof.Machine.execClose s
  | .changeState t => Sys2Proof.Machine.execChangeState t s
  | .goIdle => Sys2Proof.Machine.execGoIdle s
  | .writeIr b => Sys2Proof.Machine.execWriteIr b s
  | .writeDr b => Sys2Proof.Machine.execWriteDr b s
  | .readDr n => Sys2Proof.Machine.execReadDr n s
  | .reset => Sys2Proof.Machine.execReset s
  | .idcode => Sys2Proof.Machine.execIdcode s
  | .preload b => Sys2Proof.Machine.execPreload b s
  | .sample => Sys2Proof.Machine.execSample s
  | .extest b => Sys2Proof.Machine.execExtest b s
  | .readback => Sys2Proof.Machine.execReadback s

end Sys2Proof.Machine
end

