-- ==== Sys2Proof/Machine/Step.lean ====
section
/-! DEFINITION. One step: fetch, then run. -/

namespace Sys2Proof.Machine

/-- One step of the machine. With nothing requested the machine "does nothing" (spec/60_exceptions.md R265). -/
def step (s : State) : Host.Outcome State Fault Refusal :=
  match fetch s with
  | .instr i s' => exec i s'
  | .lost s' => .next s'
  | .idle => .next s
  | .bad why => .refused (.badRequest why)

/-- The frame of a table word placed where the next step fetches: first on the wire (log 1). -/
def State.withFetchWord (s : State) (nbits w : Nat) : State :=
  s.withWire (firstFrame s.cfg (tableBytes nbits w))

end Sys2Proof.Machine
end

