-- ==== Sys2Proof/Safety.lean ====
section
/-! DEFINITION. What claims are stated in: the invariants of spec/10_state.md R33, the well-formed link of
spec/43_link_model.md R220, and R236's relation between the TAP pointer and the remote TAP. -/

namespace Sys2Proof.Machine

/-- R220: a non-empty set of states in its one form, and registers of their lengths (R231). -/
def Link.wf (c : Config) (l : Link) : Bool :=
  l.poss != [] && l.poss == allTaps.filter (fun t => l.poss.contains t) &&
  l.irSh.length == c.irLen && l.drSh.length == c.drLen && l.irUpd.length == c.irLen && l.drUpd.length == c.drLen

/-- The block's memory, the output buffer, is in bounds (R22, R33). -/
def bufferWf (s : State) : Bool := decide (s.buf.length ≤ s.cfg.maxFrame)

/-- R33's invariants, with the mask of `DIR_WIDTH` bits (R25) and the parameters and the link well formed. -/
structure State.Inv (s : State) : Prop where
  cfg : s.cfg.wf = true
  buf : bufferWf s = true
  carry : s.carryV = false → s.carryB = false
  closed : s.session = .closed → s.buf = [] ∧ s.carryV = false
  dir : s.dir.fits s.cfg.dirWidth = true
  link : s.link.wf s.cfg = true

/-- Whether a byte stream is a concatenation of complete frames (20_memory.md R42); `fuel` bounds their number. -/
def wholeFramesN (c : Config) : Nat → List Byte → Bool
  | 0, bs => bs == []
  | n + 1, bs =>
    if bs = [] then true
    else
      match decodeFrame c bs with
      | .ok (_, rest) => wholeFramesN c n rest
      | .error _ => false

def wholeFrames (c : Config) (bs : List Byte) : Bool := wholeFramesN c bs.length bs

/-- The remote once it has interpreted everything sent and then everything queued: `APPLY(L, S.buf)` (R236). -/
def State.remote (s : State) : Link := s.link.apply s.cfg s.buf

/-- R236: the block is synchronised when the remote TAP, after everything sent and queued, is in the state the
pointer says with the line at the level that entered it (for TLR that level is 1). Sent and queued bytes are whole
frames (R42). -/
structure State.Synchronised (s : State) : Prop where
  frames : wholeFrames s.cfg (s.link.stream ++ s.buf) = true
  tap : s.remote.poss = [s.tap]
  level : s.remote.tms = some (entry s.tap)

/-! ## The words claims use for what an operation does -/

/-- The operation ends with this result (60_exceptions.md R258). -/
def returns (v : Value) (s : State) : Host.Outcome State Fault Refusal := .next { s with reply := some (.ok v) }

/-- The operation ends with this error and nothing else has changed (60_exceptions.md R256). -/
def refuses (e : Err) (s : State) : Host.Outcome State Fault Refusal := .next { s with reply := some (.error e) }

/-- What a transport failure leaves (41_framing.md R141): the call's event, no buffer, no carry, and a remote of which
the block knows nothing. -/
def failsWith (cause : TeCause) (e : TxEvent) (s : State) (l : Link) : Host.Outcome State Fault Refusal :=
  .next { s with
    events := s.events ++ [e], inp := s.inp.tail, buf := [], carryV := false, carryB := false, link := l
    reply := some (.error (.te cause)) }

/-- No check refuses for a pending carry (41_framing.md R140). -/
abbrev State.carryFree (s : State) : Prop := s.cfg.carryPolicy = .enforce → s.carryV = false

/-- `n` bytes more stay within the bound: no overflow flush (41_framing.md R142). -/
abbrev State.fits (n : Nat) (s : State) : Prop := s.buf.length + n ≤ s.cfg.maxFrame

/-- The whole buffer sent in one call that completes (41_framing.md R144). -/
def State.sent (s : State) : State :=
  { s with
    events := s.events ++ [.write s.buf true], inp := s.inp.tail, buf := []
    link := { s.link with wire := s.link.wire ++ [s.buf] } }

/-- A frame queued: appended, after a flush where it would exceed the bound (41_framing.md R142). -/
def State.queued (f : List Byte) (s : State) : State :=
  if s.buf.length + f.length ≤ s.cfg.maxFrame then { s with buf := s.buf ++ f } else { s.sent with buf := f }

/-- `i` in state `s` queues the frame `f` and then does `post`, or the overflow flush fails (41_framing.md R142). -/
def Queues (i : Instr) (s : State) (f : List Byte) (post : State → State) : Prop :=
  (s.fits f.length ∨ s.callFails = false → exec i s = returns .none (post (s.queued f))) ∧
  (¬ s.fits f.length → s.callFails = true →
    ∃ l, exec i s = failsWith .writeFailed (.write s.buf false) s l)

/-- `i` in state `s` queues the frame `f`, flushes, and reads `n` bytes that `value` makes its result (20_memory.md R55).
Each call may fail: the overflow flush of the queueing, the flush, and the read, which also fails on another length
(R51). The bytes read are the ones the transport answers, or, from the reference link, its oldest (43_link_model.md
R227). -/
def Exchanges (i : Instr) (s : State) (f : List Byte) (n : Nat) (value : List Byte → Value) : Prop :=
  (¬ s.fits f.length → s.callFails = true →
    ∃ l, exec i s = failsWith .writeFailed (.write s.buf false) s l) ∧
  (s.fits f.length ∨ s.callFails = false →
    ((s.queued f).callFails = true →
      ∃ l, exec i s = failsWith .writeFailed (.write (s.queued f).buf false) (s.queued f) l) ∧
    ((s.queued f).callFails = false → ∀ u, u = (s.queued f).sent →
      (u.callFails = true → ∃ l, exec i s = failsWith .readFailed (.read n none) u l) ∧
      ∀ r, u.answer = .bytes r ∨ (u.answer = .served ∧ r = (u.link.settle u.cfg).out.take n) →
        (r.length = n → ∃ l, exec i s = returns (value r)
          { u with events := u.events ++ [.read n (some r)], inp := u.inp.tail, link := l }) ∧
        (r.length ≠ n → ∃ l, exec i s = failsWith .shortRead (.read n (some r)) u l)))

/-- One operation, then, if it ended with a result, the next (30_encoding.md R89). -/
def andThen (o : Host.Outcome State Fault Refusal) (k : State → Host.Outcome State Fault Refusal) :
    Host.Outcome State Fault Refusal :=
  match o with
  | .next s =>
    match s.reply with
    | some (.ok _) => k s
    | some (.error _) => .next s
    | none => .next s
  | .fault r => .fault r
  | .refused r => .refused r

/-- The calls that hand bytes over or take some, or begin a session (20_memory.md R50). -/
def movesBytes : TxEvent → Bool
  | .txOpen _ _ _ _ _ f => f.isSome
  | .setPins _ _ _ => false
  | .write _ _ => true
  | .read _ _ => true
  | .txClose _ => false
  | .delay _ => false

/-- The bits of a reply that is a bit sequence. -/
def replyBits (s : State) : Bits :=
  match s.reply with
  | some (.ok (.bits b)) => b
  | _ => []

/-- The TMS events of the route between two states (40_tap_fsm.md R126). -/
def routeEvents (source target : Tap) : Bits :=
  match findPath target source with
  | none => []
  | some p => (pathToEvents p).getD []

/-- The TMS frames of a route: at most `tmsMaxEvents` events each, `d` the TDI of the first, the default in the later
ones (42_engine.md R182). -/
def routeFrames (c : Config) (source target : Tap) (d : Bool) : List Byte :=
  let ev := routeEvents source target
  if ev = [] then []
  else
    encodeFrame c (.wtms (ev.take c.tmsMaxEvents) d) ++
      if ev.drop c.tmsMaxEvents = [] then []
      else encodeFrame c (.wtms (ev.drop c.tmsMaxEvents) c.tmsTdiDefault)

/-- The data frames of a `write`: whole bytes, then at most 7 bits, of all bits but the last (41_framing.md R151). -/
def dataFrames (c : Config) (b : Bits) : List Byte :=
  let m := b.length - 1
  (if 0 < m / 8 then encodeFrame c (.wbytes (b.take (8 * (m / 8)))) else []) ++
    if 0 < m % 8 then encodeFrame c (.wbits ((b.take m).drop (8 * (m / 8)))) else []

/-- The frames of a register write: entry, data, and the exit frame with the last bit in its TDI slot (42_engine.md
R184, R185). -/
def registerFrames (c : Config) (source shift update : Tap) (d : Bool) (b : Bits) : List Byte :=
  routeFrames c source shift d ++ dataFrames c b ++ routeFrames c shift update (b.getLastD false)

/-- The answers to the calls of a `read(n)`: a byte part `bs` and a bit part `r` (41_framing.md R161, R162). -/
def readAnswers (n : Nat) (bs : List Byte) (r : Byte) : List TxAnswer :=
  (if 0 < n / 8 then [.served, .bytes bs] else []) ++ if 0 < n % 8 then [.served, .bytes [r]] else []

/-- The bits those answers are (41_framing.md R161). -/
def readResult (c : Config) (n : Nat) (bs : List Byte) (r : Byte) : Bits :=
  (if 0 < n / 8 then unpackBytes bs else []) ++ if 0 < n % 8 then justified c (n % 8) r else []

/-- What a shift register holds after the bits `b` came in at its top (43_link_model.md R224). -/
def shiftedIn (r b : Bits) : Bits := (r ++ b).drop b.length

/-- The bits that came out of it meanwhile, bit 0 first (R224, R233). -/
def shiftedOut (r b : Bits) : Bits := (r ++ b).take b.length

/-! ## Kinds of instruction -/

/-- The instructions of the TapFraming and JtagEngine groups but `open`: those that need an open session (30_encoding.md
R87). Frames are none of them: on the wire they are the link's. -/
def needsSession : Instr → Bool
  | .wbits _ => false
  | .wbytes _ => false
  | .wtms _ _ => false
  | .rbits _ => false
  | .rbytes _ => false
  | .rwbytes _ => false
  | .currentState => false
  | .gReset => false
  | .findPath _ _ => false
  | .pathToEvents _ => false
  | .applyEvents _ => false
  | .queue _ => true
  | .flush => true
  | .writeBits _ => true
  | .writeBytes _ => true
  | .write _ => true
  | .writeTms _ => true
  | .readBits _ => true
  | .readBytes _ => true
  | .read _ => true
  | .shiftBytes _ => true
  | .openSession _ _ _ _ _ => false
  | .close => true
  | .changeState _ => true
  | .goIdle => true
  | .writeIr _ => true
  | .writeDr _ => true
  | .readDr _ => true
  | .reset => true
  | .idcode => true
  | .preload _ => true
  | .sample => true
  | .extest _ => true
  | .readback => true

/-- The operations that queue data clocks at the state the pointer is in (R236's proviso, 70_reset_and_hazards.md
R291). -/
def clocksInPlace : Instr → Bool
  | .writeBits _ => true
  | .writeBytes _ => true
  | .write _ => true
  | .readBits _ => true
  | .readBytes _ => true
  | .read _ => true
  | .shiftBytes _ => true
  | _ => false

/-- The operations of R236's second point that queue no data frame outside SHDR and SHIR: all of 42_engine.md but
`open`, and `flush`. -/
def keepsPlace : Instr → Bool
  | .flush => true
  | .close => true
  | .changeState _ => true
  | .goIdle => true
  | .writeIr _ => true
  | .writeDr _ => true
  | .readDr _ => true
  | .reset => true
  | .idcode => true
  | .preload _ => true
  | .sample => true
  | .extest _ => true
  | .readback => true
  | _ => false

/-- R32's column tap. -/
def writesTap : Instr → Bool
  | .gReset => true
  | .applyEvents _ => true
  | .openSession _ _ _ _ _ => true
  | .changeState _ => true
  | .goIdle => true
  | .writeIr _ => true
  | .writeDr _ => true
  | .readDr _ => true
  | .reset => true
  | .idcode => true
  | .preload _ => true
  | .sample => true
  | .extest _ => true
  | .readback => true
  | _ => false

/-- R32's column buf. -/
def writesBuf : Instr → Bool
  | .currentState => false
  | .gReset => false
  | .findPath _ _ => false
  | .pathToEvents _ => false
  | .applyEvents _ => false
  | _ => true

/-- R32's column carry; an operation that meets a transport failure writes it too. -/
def writesCarry : Instr → Bool
  | .write _ => true
  | .writeTms _ => true
  | .openSession _ _ _ _ _ => true
  | .close => true
  | .changeState _ => true
  | .goIdle => true
  | .writeIr _ => true
  | .writeDr _ => true
  | .readDr _ => true
  | .reset => true
  | .idcode => true
  | .preload _ => true
  | .sample => true
  | .extest _ => true
  | .readback => true
  | _ => false

/-- R32's column session. -/
def writesSession : Instr → Bool
  | .openSession _ _ _ _ _ => true
  | .close => true
  | _ => false

/-- R32's column dir. -/
def writesDir : Instr → Bool
  | .openSession _ _ _ _ _ => true
  | _ => false

/-- The operations that a pending carry refuses under ENFORCE (41_framing.md R140, 92_eei_decisions.md D6). -/
def refusedByCarry : Instr → Bool
  | .writeBits _ => true
  | .writeBytes _ => true
  | .write _ => true
  | .readBits _ => true
  | .readBytes _ => true
  | .read _ => true
  | .shiftBytes _ => true
  | .close => true
  | .writeIr _ => true
  | .writeDr _ => true
  | .readDr _ => true
  | .idcode => true
  | .preload _ => true
  | .sample => true
  | .extest _ => true
  | .readback => true
  | _ => false

/-- The frame rows. -/
def isFrame : Instr → Bool
  | .wbits _ => true
  | .wbytes _ => true
  | .wtms _ _ => true
  | .rbits _ => true
  | .rbytes _ => true
  | .rwbytes _ => true
  | _ => false

/-- An error that is raised before any effect (60_exceptions.md R256). -/
def Err.isEarly : Err → Bool
  | .te _ => false
  | .pie _ => true
  | .cme _ => true

end Sys2Proof.Machine
end

