-- ==== Sys2Proof/Certificates/Slice0/Obligations.lean ====
section
/-! DEFINITION. The statements for the provers: what the rules of spec/ say the machine does. -/

open Sys2Proof Sys2Proof.Machine

/-! ## Power-on, stepping, encoding -/

/-- 10_state.md R30: every field of the block at power-on. -/
def Obligations.PowerOnState : Prop :=
  State.reset.session = .closed ∧ State.reset.tap = .tlr ∧ tapCode State.reset.tap = 0#4 ∧ State.reset.buf = [] ∧
  State.reset.carryV = false ∧ State.reset.carryB = false ∧ State.reset.dir = 0

/-- 43_link_model.md R221, 10_state.md R27, R29 and the model's two streams (log 1, log 2, log 12): a complete frame at
the head of the wire is what the step runs, on the link's turn, with exactly its bytes taken off the wire; with none
there the step runs the host's next request, with that request's inputs, on the block's turn. -/
def Obligations.StepRunsDecodedInstruction : Prop :=
  (∀ (s : State) (f : Frame) (rest : List Byte),
    decodeFrame s.cfg s.link.wire.flatten = .ok (f, rest) →
    ∃ w, w.flatten = rest ∧ step s = exec f.toInstr { s with link := { s.link with wire := w }, turn := .link }) ∧
  ∀ (s : State) (r : Request) (rs : List Request) (i : Instr),
    decodeFrame s.cfg s.link.wire.flatten = .error .truncated → s.requests = r :: rs →
    decode s.cfg r.form r.bytes = .ok (i, []) →
    step s = exec i { s with
      requests := rs, inp := r.answers, prov := r.prov, turn := .block
      began := { calls := s.events.length, link := s.link } }

/-- A step that finds no instruction. 60_exceptions.md R265 with log 1: nothing requested, nothing done; log 17: a
request that is no instruction, or more than one, is refused by name; 43_link_model.md R228: a byte at a frame start that equals no opcode
discards the rest of its `TxWrite` and leaves the remote TAP anywhere, its registers any value (log 28); log 13: so does a length field outside the
layouts, and it leaves the line level unknown. -/
def Obligations.StepWithoutInstruction : Prop :=
  (∀ s : State, decodeFrame s.cfg s.link.wire.flatten = .error .truncated →
    (s.requests = [] → step s = .next s) ∧
    ∀ (r : Request) (rs : List Request), s.requests = r :: rs →
      (∀ why, decode s.cfg r.form r.bytes = .error why → step s = .refused (.badRequest why)) ∧
      ∀ i x rest, decode s.cfg r.form r.bytes = .ok (i, x :: rest) → step s = .refused (.badRequest .badOperand)) ∧
  (∀ (s : State) (b : Byte) (bs : List Byte) (ws : List (List Byte)),
    s.link.wire = (b :: bs) :: ws → b ∉ s.cfg.opcodes →
    ∃ l, step s = .next { s with link := l } ∧ l.poss = allTaps ∧ l.tms = s.link.tms ∧ l.out = s.link.out ∧ l.wire = ws ∧
      l.torn = s.link.torn) ∧
  ∀ s : State, decodeFrame s.cfg s.link.wire.flatten = .error .reservedLength →
    ∃ l, step s = .next { s with link := l } ∧ l.poss = allTaps ∧ l.tms = none ∧ l.out = s.link.out ∧
      l.wire = dropChunk s.link.wire

/-- 30_encoding.md R73 to R78 at the default opcodes: words of the spec's worked frames, byte by byte. -/
def Obligations.SpecFramesDecode : Prop :=
  decodeTableWord 24 0x05021B = some (.wbits [true, false, true]) ∧
  decodeTableWord 40 0x8003000119 =
    some (.wbytes [true, true, false, false, false, false, false, false,
      false, false, false, false, false, false, false, true]) ∧
  decodeTableWord 24 0x82034B = some (.wtms [false, true, false, false] true) ∧
  decodeTableWord 16 0x022A = some (.rbits 3) ∧
  decodeTableWord 24 0x01FF28 = some (.rbytes 512) ∧
  decodeTableWord 32 0x01000039 = some (.rwbytes [true, false, false, false, false, false, false, false]) ∧
  decodeTableWord 24 0x00074B = none

/-- Decoding an encoded frame gives it back, whatever follows, for every field range of 30_encoding.md R83. -/
def Obligations.FrameRoundTrip : Prop :=
  ∀ (c : Config) (f : Frame) (rest : List Byte), c.wf = true → f.wellFormed c = true →
    decodeFrame c (encodeFrame c f ++ rest) = .ok (f, rest)

/-- Decoding an encoded instruction gives it back, whatever follows: the frames and every operand form of the text. -/
def Obligations.InstructionRoundTrip : Prop :=
  ∀ (c : Config) (i : Instr) (rest : List Byte), c.wf = true → i.wellFormed c = true →
    decode c i.form (encode c i ++ rest) = .ok (i, rest)

/-- 30_encoding.md R81: the length of a frame from its opcode, and for the frames with a payload from the little-endian
field at bytes 1 and 2. -/
def Obligations.FrameLengthFromFirstBytes : Prop :=
  ∀ (c : Config) (f : Frame), c.wf = true → f.wellFormed c = true →
    ∃ op lo more, encodeFrame c f = op :: lo :: more ∧
      (op = c.opcRbits → (encodeFrame c f).length = 2) ∧
      (op = c.opcWbits ∨ op = c.opcWtms ∨ op = c.opcRbytes → (encodeFrame c f).length = 3) ∧
      (op = c.opcWbytes ∨ op = c.opcRwbytes →
        ∃ hi payload, more = hi :: payload ∧
          (encodeFrame c f).length = 3 + (lo.toNat + 256 * hi.toNat + 1)) ∧
      op ∈ c.opcodes

/-! ## The TAP graph -/

/-- 40_tap_fsm.md R112: the 16 codes and the 32 edges of the transition table, which 10_state.md R26 makes a constant;
R114: all edges into a state carry its entry value, so the last event of every non-empty sequence is that of the state it
ends in; R117: the stable states are those that stay under it, and they are the six with self-loops. -/
def Obligations.EntryValuesAndStableStates : Prop :=
  allTaps.map (fun s => (s, tapCode s, nxt s false, nxt s true)) =
    [(.tlr, 0#4, .rti, .tlr), (.rti, 1#4, .rti, .seldr), (.seldr, 2#4, .capdr, .selir), (.capdr, 3#4, .shdr, .ex1dr),
     (.shdr, 4#4, .shdr, .ex1dr), (.ex1dr, 5#4, .pdr, .updr), (.pdr, 6#4, .pdr, .ex2dr), (.ex2dr, 7#4, .shdr, .updr),
     (.updr, 8#4, .rti, .seldr), (.selir, 9#4, .capir, .tlr), (.capir, 10#4, .shir, .ex1ir), (.shir, 11#4, .shir, .ex1ir),
     (.ex1ir, 12#4, .pir, .upir), (.pir, 13#4, .pir, .ex2ir), (.ex2ir, 14#4, .shir, .upir),
     (.upir, 15#4, .rti, .seldr)] ∧
  (∀ (s t : Tap) (e : Bool), nxt s e = t → e = entry t) ∧
  (∀ t : Tap, entry t = decide (t ∈ [Tap.tlr, .seldr, .ex1dr, .ex2dr, .updr, .selir, .ex1ir, .ex2ir, .upir])) ∧
  (∀ (s : Tap) (ev : Bits) (e : Bool), entry (applyEvents s (ev ++ [e])) = e) ∧
  ∀ s : Tap, (stable s = true ↔ nxt s (entry s) = s) ∧
    (stable s = true ↔ s ∈ [Tap.tlr, .rti, .shdr, .pdr, .shir, .pir]) ∧
    (stable s = true ↔ ∃ e, nxt s e = s)

/-- 40_tap_fsm.md R113 (c): five TMS = 1 events reach TLR from every state, and six states need all five. -/
def Obligations.FiveOnesReachReset : Prop :=
  (∀ s : Tap, applyEvents s (List.replicate 5 true) = .tlr) ∧
  ∀ s : Tap, applyEvents s (List.replicate 4 true) ≠ .tlr ↔ s ∈ [Tap.capdr, .shdr, .pdr, .capir, .shir, .pir]

/-- 40_tap_fsm.md R118: `find_path` from the given source, or from the pointer, returns a path and writes nothing; R122:
it always finds one, of at most 9 states; R120: it joins source to target along edges, and every other event sequence
between the two is longer; R121: from a state to itself it is that state alone. -/
def Obligations.FindPathReturnsShortest : Prop :=
  ∀ (s : State) (target source : Tap) (given : Option Tap), source = given.getD s.tap →
    ∃ p ev, exec (.findPath target given) s = returns (.path p) s ∧ pathToEvents p = some ev ∧
      p.head? = some source ∧ p.getLast? = some target ∧ p.Nodup ∧ p.length ≤ 9 ∧
      (source = target → p = [target] ∧ ev = []) ∧ applyEvents source ev = target ∧
      ∀ other : Bits, applyEvents source other = target → ev.length < other.length ∨ other = ev

/-- 40_tap_fsm.md R123, R124: `path_to_events` returns one event for each consecutive pair, the TMS value of its edge;
the empty path and a path with a pair that no edge joins raise `PIE.InvalidPath`; every other path has its events. Nothing
is written. -/
def Obligations.PathEventsFollowEdges : Prop :=
  (∀ (s : State) (p : List Tap) (ev : Bits),
    exec (.pathToEvents p) s = returns (.bits ev) s ↔
      p.length = ev.length + 1 ∧ ∀ k a d e, p[k]? = some a → p[k + 1]? = some d → ev[k]? = some e → nxt a e = d) ∧
  ∀ (s : State) (p : List Tap),
    (p = [] ∨ (∃ k a d, p[k]? = some a ∧ p[k + 1]? = some d ∧ ∀ e, nxt a e ≠ d) →
      exec (.pathToEvents p) s = refuses (.pie (.invalidPath p)) s) ∧
    (p ≠ [] → (∀ k a d, p[k]? = some a → p[k + 1]? = some d → ∃ e, nxt a e = d) →
      ∃ ev, exec (.pathToEvents p) s = returns (.bits ev) s)

/-- 40_tap_fsm.md R115: `current_state` returns the pointer and writes nothing; R116: `G.reset` writes the pointer only,
with no transport call; R125: `apply_events` moves the pointer one edge per bit, left to right, and sends nothing. -/
def Obligations.PointerOperations : Prop :=
  (∀ s : State, exec .currentState s = returns (.state s.tap) s) ∧
  (∀ s : State, exec .gReset s = returns .none { s with tap := .tlr }) ∧
  (∀ s : State, exec (.applyEvents []) s = returns .none s) ∧
  (∀ (s : State) (e : Bool) (ev : Bits),
    exec (.applyEvents (e :: ev)) s = exec (.applyEvents ev) { s with tap := nxt s.tap e }) ∧
  ∀ (s : State) (ev : Bits), ∃ t, exec (.applyEvents ev) s = returns .none { s with tap := t }

/-! ## The framing engine -/

/-- 41_framing.md R142: too large a frame is refused; else it is appended, after a flush where it would exceed the
bound. -/
def Obligations.QueueAppendsFrame : Prop :=
  ∀ (s : State) (f : List Byte),
    (s.session = .closed → exec (.queue f) s = refuses (.cme .sessionClosed) s) ∧
    (s.session = .opened →
      (s.cfg.maxFrame < f.length → exec (.queue f) s = refuses (.pie (.frameTooLarge f.length)) s) ∧
      (f.length ≤ s.cfg.maxFrame → Queues (.queue f) s f id))

/-- 41_framing.md R144: an empty buffer makes no call; else one call sends all of it. -/
def Obligations.FlushSendsWholeBuffer : Prop :=
  ∀ s : State,
    (s.session = .closed → exec .flush s = refuses (.cme .sessionClosed) s) ∧
    (s.session = .opened →
      (s.buf = [] → exec .flush s = returns .none s) ∧
      (s.buf ≠ [] → s.callFails = false → exec .flush s = returns .none s.sent) ∧
      (s.buf ≠ [] → s.callFails = true →
        ∃ l, exec .flush s = failsWith .writeFailed (.write s.buf false) s l))

/-- 41_framing.md R145: 1 to 8 bits go as one `WBITS` frame; the carry and the pointer stay. -/
def Obligations.WriteBitsQueuesFrame : Prop :=
  ∀ (s : State) (b : Bits), s.cfg.wf = true →
    (s.session = .closed → exec (.writeBits b) s = refuses (.cme .sessionClosed) s) ∧
    (s.session = .opened →
      (b.length < 1 ∨ s.cfg.writeBitsMax < b.length →
        exec (.writeBits b) s = refuses (.pie (.bitCount b.length)) s) ∧
      (1 ≤ b.length → b.length ≤ s.cfg.writeBitsMax →
        (¬ s.carryFree → exec (.writeBits b) s = refuses (.pie .carryPending) s) ∧
        (s.carryFree →
          Queues (.writeBits b) s [s.cfg.opcWbits, BitVec.ofNat 8 (b.length - 1), pack8 b] id)))

/-- 41_framing.md R147: whole bytes go as one `WBYTES` frame with a little-endian count. -/
def Obligations.WriteBytesQueuesFrame : Prop :=
  ∀ (s : State) (b : Bits),
    (s.session = .closed → exec (.writeBytes b) s = refuses (.cme .sessionClosed) s) ∧
    (s.session = .opened →
      (b.length = 0 ∨ b.length % 8 ≠ 0 → exec (.writeBytes b) s = refuses (.pie (.byteAlign b.length)) s) ∧
      (b.length ≠ 0 → b.length % 8 = 0 →
        (s.cfg.maxFrame < 3 + b.length / 8 →
          exec (.writeBytes b) s = refuses (.pie (.frameTooLarge (3 + b.length / 8))) s) ∧
        (3 + b.length / 8 ≤ s.cfg.maxFrame →
          (¬ s.carryFree → exec (.writeBytes b) s = refuses (.pie .carryPending) s) ∧
          (s.carryFree →
            Queues (.writeBytes b) s
              ([s.cfg.opcWbytes, BitVec.ofNat 8 (b.length / 8 - 1), BitVec.ofNat 8 ((b.length / 8 - 1) / 256)] ++
                packBytes b) id))))

/-- 41_framing.md R151: the checks of `write`, in order; when they pass, it is `write_bytes` of the whole-byte prefix of
all bits but the last, then `write_bits` of the residual, each only when there is something to send, and then the last
bit is the carry. -/
def Obligations.WriteIsItsParts : Prop :=
  ∀ (s : State) (b : Bits), s.cfg.wf = true →
    (s.session = .closed → exec (.write b) s = refuses (.cme .sessionClosed) s) ∧
    (s.session = .opened → b = [] → exec (.write b) s = refuses (.pie .emptyWrite) s) ∧
    (s.session = .opened → b ≠ [] → 0 < (b.length - 1) / 8 → s.cfg.maxFrame < 3 + (b.length - 1) / 8 →
      exec (.write b) s = refuses (.pie (.frameTooLarge (3 + (b.length - 1) / 8))) s) ∧
    (s.session = .opened → b ≠ [] → (0 < (b.length - 1) / 8 → 3 + (b.length - 1) / 8 ≤ s.cfg.maxFrame) →
      (¬ s.carryFree → exec (.write b) s = refuses (.pie .carryPending) s) ∧
      (s.carryFree →
        exec (.write b) s =
          andThen
            (if 0 < (b.length - 1) / 8 then exec (.writeBytes (b.take (8 * ((b.length - 1) / 8)))) s
            else returns .none s)
            fun s₁ =>
              andThen
                (if 0 < (b.length - 1) % 8 then
                  exec (.writeBits ((b.take (b.length - 1)).drop (8 * ((b.length - 1) / 8)))) s₁
                else returns .none s₁)
                fun s₂ => returns .none { s₂ with carryV := true, carryB := b.getLastD false }))

/-- 41_framing.md R151, R152: where its frames fit the buffer, `write` appends them, makes no call, and leaves its last
bit as the carry. -/
def Obligations.WriteDefersLastBit : Prop :=
  ∀ (s : State) (b : Bits), s.session = .opened → s.carryFree → b ≠ [] →
    (0 < (b.length - 1) / 8 → 3 + (b.length - 1) / 8 ≤ s.cfg.maxFrame) → s.fits (dataFrames s.cfg b).length →
    exec (.write b) s = returns .none
      { s with buf := s.buf ++ dataFrames s.cfg b, carryV := true, carryB := b.getLastD false }

/-- 41_framing.md R154: 1 to 7 events go as one `WTMS` frame whose top bit is the pending carry, else the default;
the carry is clear afterwards and the pointer does not move. -/
def Obligations.WriteTmsConsumesCarry : Prop :=
  ∀ (s : State) (ev : Bits), s.cfg.wf = true →
    (s.session = .closed → exec (.writeTms ev) s = refuses (.cme .sessionClosed) s) ∧
    (s.session = .opened →
      (ev.length < 1 ∨ s.cfg.tmsMaxEvents < ev.length →
        exec (.writeTms ev) s = refuses (.pie (.tmsLength ev.length)) s) ∧
      (1 ≤ ev.length → ev.length ≤ s.cfg.tmsMaxEvents →
        Queues (.writeTms ev) s
          [s.cfg.opcWtms, BitVec.ofNat 8 (ev.length - 1),
            pack8 ev ||| (if (if s.carryV then s.carryB else s.cfg.tmsTdiDefault) then 0x80#8 else 0x00#8)]
          fun t => { t with carryV := false, carryB := false }))

/-- 41_framing.md R157: one `RBITS` frame, a flush of everything queued, one byte read; its n bits by the
justification. -/
def Obligations.ReadBitsExchangesOneByte : Prop :=
  ∀ (s : State) (n : Nat), s.cfg.wf = true →
    (s.session = .closed → exec (.readBits n) s = refuses (.cme .sessionClosed) s) ∧
    (s.session = .opened →
      (n < 1 ∨ s.cfg.readBitsMax < n → exec (.readBits n) s = refuses (.pie (.readBitsBound n)) s) ∧
      (1 ≤ n → n ≤ s.cfg.readBitsMax →
        (¬ s.carryFree → exec (.readBits n) s = refuses (.pie .carryPending) s) ∧
        (s.carryFree →
          Exchanges (.readBits n) s [s.cfg.opcRbits, BitVec.ofNat 8 (n - 1)] 1
            fun r => .bits ((List.range n).map fun i =>
              (r.headD 0#8).getLsbD (if s.cfg.readBitsJustify = .msb then 8 - n + i else i)))))

/-- 41_framing.md R159: one `RBYTES` frame, a flush, n bytes read, each least significant bit first. -/
def Obligations.ReadBytesExchangesBytes : Prop :=
  ∀ (s : State) (n : Nat), s.cfg.wf = true →
    (s.session = .closed → exec (.readBytes n) s = refuses (.cme .sessionClosed) s) ∧
    (s.session = .opened →
      (n < 1 ∨ s.cfg.readBytesMax < n → exec (.readBytes n) s = refuses (.pie (.readBytesBound n)) s) ∧
      (1 ≤ n → n ≤ s.cfg.readBytesMax →
        (¬ s.carryFree → exec (.readBytes n) s = refuses (.pie .carryPending) s) ∧
        (s.carryFree →
          Exchanges (.readBytes n) s
            [s.cfg.opcRbytes, BitVec.ofNat 8 (n - 1), BitVec.ofNat 8 ((n - 1) / 256)] n
            fun r => .bits (unpackBytes r))))

/-- 41_framing.md R161, R162: the byte part by `read_bytes`, then the residual by `read_bits`, concatenated; zero bits
make no call. -/
def Obligations.ReadIsItsParts : Prop :=
  ∀ (s : State) (n : Nat), s.cfg.wf = true →
    (s.session = .closed → exec (.read n) s = refuses (.cme .sessionClosed) s) ∧
    (s.session = .opened →
      (s.cfg.readBytesMax < n / 8 → exec (.read n) s = refuses (.pie (.readBytesBound (n / 8))) s) ∧
      (n / 8 ≤ s.cfg.readBytesMax →
        (¬ s.carryFree → exec (.read n) s = refuses (.pie .carryPending) s) ∧
        (s.carryFree →
          exec (.read n) s =
            andThen (if 0 < n / 8 then exec (.readBytes (n / 8)) s else returns (.bits []) s) fun s₁ =>
              andThen (if 0 < n % 8 then exec (.readBits (n % 8)) s₁ else returns (.bits []) s₁) fun s₂ =>
                returns (.bits (replyBits s₁ ++ replyBits s₂)) s₂)))

/-- 41_framing.md R161: a `read` completes with exactly n bits when its calls are answered. -/
def Obligations.ReadCompletes : Prop :=
  ∀ (s : State) (n : Nat) (bs : List Byte) (r : Byte) (rest : List TxAnswer), s.cfg.wf = true →
    s.session = .opened → n / 8 ≤ s.cfg.readBytesMax → s.carryFree → s.fits 3 →
    (0 < n / 8 → bs.length = n / 8) → s.inp = readAnswers n bs r ++ rest →
    (readResult s.cfg n bs r).length = n ∧
    ∃ t, exec (.read n) s = .next t ∧ t.reply = some (.ok (.bits (readResult s.cfg n bs r))) ∧
      t.tap = s.tap ∧ t.carryV = s.carryV ∧ t.carryB = s.carryB ∧ t.inp = rest ∧
      t.buf = if n = 0 then s.buf else []

/-- 41_framing.md R163: whole bytes out and in by one `RWBYTES` frame; the carry is not touched. -/
def Obligations.ShiftBytesExchangesBytes : Prop :=
  ∀ (s : State) (b : Bits),
    (s.session = .closed → exec (.shiftBytes b) s = refuses (.cme .sessionClosed) s) ∧
    (s.session = .opened →
      (b.length = 0 ∨ b.length % 8 ≠ 0 → exec (.shiftBytes b) s = refuses (.pie (.byteAlign b.length)) s) ∧
      (b.length ≠ 0 → b.length % 8 = 0 →
        (s.cfg.maxFrame < 3 + b.length / 8 →
          exec (.shiftBytes b) s = refuses (.pie (.frameTooLarge (3 + b.length / 8))) s) ∧
        (3 + b.length / 8 ≤ s.cfg.maxFrame →
          (¬ s.carryFree → exec (.shiftBytes b) s = refuses (.pie .carryPending) s) ∧
          (s.carryFree →
            Exchanges (.shiftBytes b) s
              ([s.cfg.opcRwbytes, BitVec.ofNat 8 (b.length / 8 - 1), BitVec.ofNat 8 ((b.length / 8 - 1) / 256)] ++
                packBytes b) (b.length / 8) fun r => .bits (unpackBytes r)))))

/-- 41_framing.md R165: frames whose running total stays within the bound make no transport call: they are queued, in
order; the first frame that would exceed it makes one call, of the bytes already queued, before it is appended. -/
def Obligations.FramesCoalesce : Prop :=
  (∀ (fs : List (List Byte)) (s : State), s.session = .opened → s.fits fs.flatten.length →
    fs.foldl (fun o f => andThen o (exec (.queue f))) (returns .none s) =
      returns .none { s with buf := s.buf ++ fs.flatten }) ∧
  ∀ (f : List Byte) (s : State), s.session = .opened → f.length ≤ s.cfg.maxFrame → ¬ s.fits f.length →
    s.callFails = false →
    exec (.queue f) s = returns .none { s.sent with buf := f }

/-- 41_framing.md R166: after `write(b)` then `write_tms(ev)`, bit 7 of the frame's payload, the last byte queued, is
the last bit of b. -/
def Obligations.CarryReachesExitFrame : Prop :=
  ∀ (s s₁ s₂ : State) (b ev : Bits), s.cfg.wf = true →
    exec (.write b) s = .next s₁ → s₁.reply = some (.ok .none) →
    exec (.writeTms ev) s₁ = .next s₂ → s₂.reply = some (.ok .none) →
    ∃ payload, s₂.buf.getLast? = some payload ∧ b.getLast? = some (payload.getLsbD 7) ∧ s₂.carryV = false

/-- 41_framing.md R153: under LEGACY a second write loses the first one's deferred bit: frames and state are what they
would be had no carry been pending. -/
def Obligations.LegacyWriteOverwritesCarry : Prop :=
  ∀ (s : State) (b : Bits), s.cfg.wf = true → s.cfg.carryPolicy = .legacy → s.session = .opened → s.carryV = true →
    writeErr s.cfg b = none →
    exec (.write b) s = exec (.write b) { s with carryV := false, carryB := false } ∧
    (s.fits (dataFrames s.cfg b).length → exec (.write b) s = returns .none
      { s with buf := s.buf ++ dataFrames s.cfg b, carryB := b.getLastD false })

/-- 41_framing.md R140, R156: under ENFORCE, while a carry is pending, each of the named operations ends with an error
and has no effect. -/
def Obligations.PendingCarryRefuses : Prop :=
  ∀ (s : State) (i : Instr), s.cfg.carryPolicy = .enforce → s.carryV = true → refusedByCarry i = true →
    ∃ e, exec i s = refuses e s ∧ e.isEarly = true

/-! ## The sequencer -/

/-- 42_engine.md R180: refused in an open session; else the session opens with the mask, the pointer TLR, no buffer, no
carry, and the answered frequency; a failure leaves the block as it was. -/
def Obligations.OpenStartsSession : Prop :=
  ∀ (s : State) (vid pid idx freq : Nat) (dir : PinMask),
    (s.session = .opened → exec (.openSession vid pid idx dir freq) s = refuses (.cme .alreadyOpen) s) ∧
    (s.session = .closed → s.callFails = true →
      ∃ l, exec (.openSession vid pid idx dir freq) s = refuses (.te .openFailed)
        { s with events := s.events ++ [.txOpen vid pid idx dir freq none], inp := s.inp.tail, link := l }) ∧
    (s.session = .closed → s.callFails = false →
      ∃ f l, (∀ g rest, s.inp = .freq g :: rest → f = g) ∧ l.poss = allTaps ∧ l.tms = none ∧ l.out = [] ∧
        exec (.openSession vid pid idx dir freq) s = returns (.freq f)
          { s with
            events := s.events ++ [.txOpen vid pid idx dir freq (some f)], inp := s.inp.tail
            session := .opened, dir := dir, buf := [], carryV := false, carryB := false, tap := .tlr, link := l })

/-- 42_engine.md R181: with no carry that refuses, `close` flushes, drops the carry, closes the transport and the
session; a failed `TxClose` leaves the session open. Stated for an empty buffer and for one whose flush completes. -/
def Obligations.CloseEndsSession : Prop :=
  ∀ s : State,
    (s.session = .closed → exec .close s = refuses (.cme .sessionClosed) s) ∧
    (s.session = .opened → ¬ s.carryFree → exec .close s = refuses (.pie .carryPending) s) ∧
    (s.session = .opened → s.carryFree →
      (s.buf ≠ [] → s.callFails = true →
        ∃ l, exec .close s = failsWith .writeFailed (.write s.buf false) s l) ∧
      ∀ u, u = (if s.buf = [] then s else s.sent) → (s.buf ≠ [] → s.callFails = false) →
        (u.callFails = false → exec .close s = returns .none
          { u with
            events := u.events ++ [.txClose true], inp := u.inp.tail
            session := .closed, carryV := false, carryB := false }) ∧
        (u.callFails = true → ∃ l, exec .close s = failsWith .closeFailed (.txClose false) u l))

/-- 42_engine.md R182: `change_state` is a `write_tms` for each piece of at most `TMS_MAX_EVENTS` events of the route, and
then the pointer moves to the target; R183: `go_idle` is `change_state RTI`. A route has at most 8 events, so two
pieces. -/
def Obligations.ChangeStateIsItsParts : Prop :=
  ∀ (s : State) (i : Instr) (t : Tap), i = .changeState t ∨ (i = .goIdle ∧ t = .rti) →
    (s.session = .closed → exec i s = refuses (.cme .sessionClosed) s) ∧
    (s.session = .opened → s.tap = t → exec i s = returns .none s) ∧
    (s.cfg.wf = true → s.session = .opened → s.tap ≠ t → ∀ ev, ev = routeEvents s.tap t →
      exec i s =
        andThen (exec (.writeTms (ev.take s.cfg.tmsMaxEvents)) s) fun s₁ =>
          andThen
            (if ev.drop s.cfg.tmsMaxEvents = [] then returns .none s₁
            else exec (.writeTms (ev.drop s.cfg.tmsMaxEvents)) s₁)
            fun s₂ => returns .none { s₂ with tap := t })

/-- 42_engine.md R182, R183: where its frames fit, `change_state` queues the route's frames, the first with the carry,
and moves the pointer; to the same state it does nothing. `go_idle` is `change_state RTI`. -/
def Obligations.ChangeStateQueuesRoute : Prop :=
  ∀ (s : State) (i : Instr) (t : Tap), i = .changeState t ∨ (i = .goIdle ∧ t = .rti) →
    (s.session = .closed → exec i s = refuses (.cme .sessionClosed) s) ∧
    (s.session = .opened → s.tap = t → exec i s = returns .none s) ∧
    (s.cfg.wf = true → s.session = .opened → s.tap ≠ t →
      s.fits (routeFrames s.cfg s.tap t (if s.carryV then s.carryB else s.cfg.tmsTdiDefault)).length →
      exec i s = returns .none
        { s with
          buf := s.buf ++ routeFrames s.cfg s.tap t (if s.carryV then s.carryB else s.cfg.tmsTdiDefault)
          tap := t, carryV := false, carryB := false })

/-- 42_engine.md R182, R183 and 41_framing.md R141: in every open session `change_state` and `go_idle` either end at the
target, or the overflow flush failed and the pointer is where it was. -/
def Obligations.ChangeStateMovesOrFails : Prop :=
  ∀ (s : State) (i : Instr) (t : Tap), i = .changeState t ∨ (i = .goIdle ∧ t = .rti) →
    s.cfg.wf = true → s.session = .opened →
    ∃ u, exec i s = .next u ∧ u.session = s.session ∧ u.dir = s.dir ∧ u.cfg = s.cfg ∧
      ((u.reply = some (.ok .none) ∧ u.tap = t ∧ (s.tap ≠ t → u.carryV = false ∧ u.carryB = false)) ∨
        (u.reply = some (.error (.te .writeFailed)) ∧ u.tap = s.tap ∧ u.buf = [] ∧ u.carryV = false ∧
          u.carryB = false))

/-- 42_engine.md R184 to R186 (30_encoding.md R89): the checks of the register operations, in order and before any effect;
when they pass, each operation is its parts, one after another. -/
def Obligations.RegisterOperationsAreTheirParts : Prop :=
  (∀ (s : State) (b : Bits) (i : Instr) (shift update : Tap), s.cfg.wf = true →
    (i = .writeIr b ∧ shift = .shir ∧ update = .upir) ∨ (i = .writeDr b ∧ shift = .shdr ∧ update = .updr) →
    (s.session = .closed → exec i s = refuses (.cme .sessionClosed) s) ∧
    (s.session = .opened → b = [] → exec i s = refuses (.pie .emptyWrite) s) ∧
    (s.session = .opened → b ≠ [] → 0 < (b.length - 1) / 8 → s.cfg.maxFrame < 3 + (b.length - 1) / 8 →
      exec i s = refuses (.pie (.frameTooLarge (3 + (b.length - 1) / 8))) s) ∧
    (s.session = .opened → b ≠ [] → (0 < (b.length - 1) / 8 → 3 + (b.length - 1) / 8 ≤ s.cfg.maxFrame) →
      (¬ s.carryFree → exec i s = refuses (.pie .carryPending) s) ∧
      (s.carryFree →
        exec i s =
          andThen (exec (.changeState shift) s) fun s₁ =>
            andThen (exec (.write b) s₁) fun s₂ => exec (.changeState update) s₂))) ∧
  ∀ (s : State) (n : Nat), s.cfg.wf = true →
    (s.session = .closed → exec (.readDr n) s = refuses (.cme .sessionClosed) s) ∧
    (s.session = .opened → s.cfg.readBytesMax < n / 8 →
      exec (.readDr n) s = refuses (.pie (.readBytesBound (n / 8))) s) ∧
    (s.session = .opened → n / 8 ≤ s.cfg.readBytesMax →
      (¬ s.carryFree → exec (.readDr n) s = refuses (.pie .carryPending) s) ∧
      (s.carryFree →
        exec (.readDr n) s =
          andThen (exec (.changeState .shdr) s) fun s₁ =>
            andThen (exec (.read n) s₁) fun s₂ =>
              andThen (exec (.changeState .updr) s₂) fun s₃ => returns (.bits (replyBits s₂)) s₃))

/-- 42_engine.md R190, R191, R193 (30_encoding.md R89): the checks of `idcode`, `preload` and `extest`: the session, then the
provider's pattern before the operand (log 20: the model's reading of R191), with the carry before both (R189) or after both
(60_exceptions.md R255, 92_eei_decisions.md D27) as the model's parameter says (log 26); when they pass, each operation is
its parts. -/
def Obligations.FacilityWritesAreTheirParts : Prop :=
  (∀ s : State, s.cfg.wf = true →
    (s.session = .closed → exec .idcode s = refuses (.cme .sessionClosed) s) ∧
    (s.session = .opened → ¬ s.carryFree → exec .idcode s = refuses (.pie .carryPending) s) ∧
    (s.session = .opened → s.carryFree →
      exec .idcode s =
        andThen (exec (.readDr 32) s) fun s₁ =>
          andThen (exec .goIdle s₁) fun s₂ => returns (.int (natOfBits (replyBits s₁))) s₂)) ∧
  ∀ (s : State) (b pattern : Bits) (i : Instr), s.cfg.wf = true →
    (i = .preload b ∧ pattern = s.prov.preload) ∨ (i = .extest b ∧ pattern = s.prov.extest) →
    (s.session = .closed → exec i s = refuses (.cme .sessionClosed) s) ∧
    (s.session = .opened → ¬ s.carryFree →
      s.cfg.facilityOrder = .carryFirst ∨ (writeErr s.cfg pattern = none ∧ writeErr s.cfg b = none) →
      exec i s = refuses (.pie .carryPending) s) ∧
    (s.session = .opened → s.carryFree ∨ s.cfg.facilityOrder = .argumentsFirst →
      (∀ e, writeErr s.cfg pattern = some e → exec i s = refuses e s) ∧
      (∀ e, writeErr s.cfg pattern = none → writeErr s.cfg b = some e → exec i s = refuses e s)) ∧
    (s.session = .opened → s.carryFree → writeErr s.cfg pattern = none → writeErr s.cfg b = none →
      exec i s =
        andThen (exec (.writeIr pattern) s) fun s₁ =>
          andThen (exec (.writeDr b) s₁) fun s₂ => exec .goIdle s₂)

/-- 42_engine.md R192, R194 (30_encoding.md R89): the checks of `sample` and `readback`: the session, then the length's sign,
the provider's pattern (log 20), the length's bound, with the carry before these (R189) or after them (60_exceptions.md
R255, 92_eei_decisions.md D27) as the model's parameter says (log 26); when they pass, each operation is its parts. -/
def Obligations.FacilityReadsAreTheirParts : Prop :=
  (∀ (s : State) (i : Instr), i = .sample ∨ i = .readback →
    (s.session = .closed → exec i s = refuses (.cme .sessionClosed) s) ∧
    (s.session = .opened → ¬ s.carryFree → s.cfg.facilityOrder = .carryFirst →
      exec i s = refuses (.pie .carryPending) s) ∧
    (s.session = .opened → s.carryFree ∨ s.cfg.facilityOrder = .argumentsFirst → s.prov.boundaryLength < 0 →
      exec i s = refuses (.pie (.providerValue s.prov.boundaryLength)) s)) ∧
  ∀ (s : State) (len : Nat), s.cfg.wf = true → s.session = .opened → s.prov.boundaryLength = len →
    (s.carryFree ∨ s.cfg.facilityOrder = .argumentsFirst →
      (∀ e, writeErr s.cfg s.prov.sample = some e → exec .sample s = refuses e s) ∧
      (s.cfg.readBytesMax < len / 8 →
        (writeErr s.cfg s.prov.sample = none → exec .sample s = refuses (.pie (.readBytesBound (len / 8))) s) ∧
        exec .readback s = refuses (.pie (.readBytesBound (len / 8))) s)) ∧
    (len / 8 ≤ s.cfg.readBytesMax → ¬ s.carryFree →
      (writeErr s.cfg s.prov.sample = none → exec .sample s = refuses (.pie .carryPending) s) ∧
      exec .readback s = refuses (.pie .carryPending) s) ∧
    (len / 8 ≤ s.cfg.readBytesMax → s.carryFree →
      (writeErr s.cfg s.prov.sample = none →
        exec .sample s =
          andThen (exec (.writeIr s.prov.sample) s) fun s₁ =>
            andThen (exec (.readDr len) s₁) fun s₂ =>
              andThen (exec .goIdle s₂) fun s₃ => returns (.bits (replyBits s₂)) s₃) ∧
      exec .readback s =
        andThen (exec (.readDr len) s) fun s₂ =>
          andThen (exec .goIdle s₂) fun s₃ => returns (.bits (replyBits s₂)) s₃)

/-- 42_engine.md R184 (also R185, R191 to R193): the argument check that the facility statements name refuses the empty
sequence and a byte part too large for one frame, and nothing else. -/
def Obligations.WriteArgumentCheck : Prop :=
  ∀ (c : Config) (b : Bits),
    (b = [] → writeErr c b = some (.pie .emptyWrite)) ∧
    (b ≠ [] → 0 < (b.length - 1) / 8 → c.maxFrame < 3 + (b.length - 1) / 8 →
      writeErr c b = some (.pie (.frameTooLarge (3 + (b.length - 1) / 8)))) ∧
    (b ≠ [] → (0 < (b.length - 1) / 8 → 3 + (b.length - 1) / 8 ≤ c.maxFrame) → writeErr c b = none)

/-- 42_engine.md R184, R185: where the frames fit, a register write queues entry, data and exit frames, the exit
carrying the last bit, and ends in the update state with no carry; nothing is sent. -/
def Obligations.RegisterWritesComplete : Prop :=
  ∀ (s : State) (b : Bits), s.cfg.wf = true → s.session = .opened → s.carryFree → writeErr s.cfg b = none →
    (∀ fr, fr = registerFrames s.cfg s.tap .shir .upir (if s.carryV then s.carryB else s.cfg.tmsTdiDefault) b →
      s.fits fr.length →
      exec (.writeIr b) s = returns .none
        { s with buf := s.buf ++ fr, tap := .upir, carryV := false, carryB := false }) ∧
    ∀ fr, fr = registerFrames s.cfg s.tap .shdr .updr (if s.carryV then s.carryB else s.cfg.tmsTdiDefault) b →
      s.fits fr.length →
      exec (.writeDr b) s = returns .none
        { s with buf := s.buf ++ fr, tap := .updr, carryV := false, carryB := false }

/-- 42_engine.md R186, R190, R192, R194: with their calls answered and room in the buffer, the register reads complete with
the answered bits and leave the exit frames queued. -/
def Obligations.RegisterReadsComplete : Prop :=
  ∀ (s : State) (n : Nat) (bs : List Byte) (r : Byte) (rest : List TxAnswer), s.cfg.wf = true →
    s.session = .opened → s.carryFree → n / 8 ≤ s.cfg.readBytesMax → s.fits 12 →
    (0 < n / 8 → bs.length = n / 8) → s.inp = readAnswers n bs r ++ rest →
    ∀ d, d = (if s.tap = .shdr ∧ s.carryV = true then s.carryB else s.cfg.tmsTdiDefault) →
    (∃ t, exec (.readDr n) s = .next t ∧ t.reply = some (.ok (.bits (readResult s.cfg n bs r))) ∧
      t.tap = .updr ∧ t.carryV = false ∧ t.carryB = false ∧ t.inp = rest ∧
      (0 < n → t.buf = routeFrames s.cfg .shdr .updr d)) ∧
    (n = 32 → ∃ t, exec .idcode s = .next t ∧
      t.reply = some (.ok (.int (natOfBits (readResult s.cfg 32 bs r)))) ∧
      t.tap = .rti ∧ t.carryV = false ∧ t.inp = rest ∧
      t.buf = routeFrames s.cfg .shdr .updr d ++ routeFrames s.cfg .updr .rti s.cfg.tmsTdiDefault) ∧
    (s.prov.boundaryLength = n → ∃ t, exec .readback s = .next t ∧
      t.reply = some (.ok (.bits (readResult s.cfg n bs r))) ∧ t.tap = .rti ∧ t.carryV = false ∧ t.inp = rest ∧
      (0 < n → t.buf = routeFrames s.cfg .shdr .updr d ++ routeFrames s.cfg .updr .rti s.cfg.tmsTdiDefault)) ∧
    (s.prov.boundaryLength = n → writeErr s.cfg s.prov.sample = none →
      s.fits ((dataFrames s.cfg s.prov.sample).length + 18) → ∃ t, exec .sample s = .next t ∧
      t.reply = some (.ok (.bits (readResult s.cfg n bs r))) ∧ t.tap = .rti ∧ t.carryV = false ∧ t.inp = rest ∧
      (0 < n → t.buf = routeFrames s.cfg .shdr .updr s.cfg.tmsTdiDefault ++
        routeFrames s.cfg .updr .rti s.cfg.tmsTdiDefault))

/-- 42_engine.md R191, R193: where the frames fit, `preload` and `extest` queue the provider's instruction, the data
and the way to idle, and send nothing. -/
def Obligations.FacilityWritesComplete : Prop :=
  ∀ (s : State) (pattern b : Bits) (i : Instr),
    (i = .preload b ∧ pattern = s.prov.preload) ∨ (i = .extest b ∧ pattern = s.prov.extest) →
    s.cfg.wf = true → s.session = .opened → s.carryFree → writeErr s.cfg pattern = none → writeErr s.cfg b = none →
    ∀ fr, fr = registerFrames s.cfg s.tap .shir .upir (if s.carryV then s.carryB else s.cfg.tmsTdiDefault) pattern ++
        registerFrames s.cfg .upir .shdr .updr s.cfg.tmsTdiDefault b ++
        routeFrames s.cfg .updr .rti s.cfg.tmsTdiDefault →
      s.fits fr.length →
      exec i s = returns .none { s with buf := s.buf ++ fr, tap := .rti, carryV := false, carryB := false }

/-- 42_engine.md R187, R188: with every call answered, `reset` flushes, pulses the reset pin with a delay on each edge,
sends five TMS = 1 events with the pending carry in their TDI slot, and sets the pointer; a call that fails leaves the
pointer as it was and discards buffer and carry. -/
def Obligations.ResetDrivesPinsAndEvents : Prop :=
  (∀ s : State, s.session = .closed → exec .reset s = refuses (.cme .sessionClosed) s) ∧
  (∀ s : State, s.cfg.wf = true → s.session = .opened →
    ∃ t, exec .reset s = .next t ∧ t.session = .opened ∧ t.dir = s.dir ∧ t.buf = [] ∧ t.carryV = false ∧
      t.carryB = false ∧
      ((t.reply = some (.ok .none) ∧ t.tap = .tlr) ∨
        ((t.reply = some (.error (.te .writeFailed)) ∨ t.reply = some (.error (.te .pinsFailed))) ∧
          t.tap = s.tap))) ∧
  ∀ s : State, s.cfg.wf = true → s.session = .opened → (∀ a ∈ s.inp, a ≠ .fail) →
    ∃ l, exec .reset s = returns .none
      { s with
        events := s.events ++ (if s.buf = [] then [] else [.write s.buf true]) ++
          [.setPins (if s.cfg.trstActiveLow then s.cfg.pinIdle.without s.cfg.dirWidth s.cfg.pinTrst else s.cfg.pinIdle ||| s.cfg.pinTrst)
            s.dir true, .delay s.cfg.settleDelay,
           .setPins (if s.cfg.trstActiveLow then s.cfg.pinIdle ||| s.cfg.pinTrst else s.cfg.pinIdle.without s.cfg.dirWidth s.cfg.pinTrst)
            s.dir true, .delay s.cfg.settleDelay,
           .write [s.cfg.opcWtms, 0x04#8, 0x1F#8 |||
            (if (if s.carryV then s.carryB else s.cfg.tmsTdiDefault) then 0x80#8 else 0x00#8)] true]
        inp := s.inp.drop (if s.buf = [] then 3 else 4)
        buf := [], carryV := false, carryB := false, tap := .tlr, link := l }

/-! ## Errors and frames of effect -/

/-- 60_exceptions.md R250 to R253: the code of every kind and of every cause. -/
def Obligations.ErrorCodes : Prop :=
  (∀ x, (Err.te x).kindCode = 1) ∧ (∀ x, (Err.pie x).kindCode = 2) ∧ (∀ x, (Err.cme x).kindCode = 3) ∧
  [TeCause.openFailed, .writeFailed, .readFailed, .shortRead, .pinsFailed, .closeFailed].map
    (fun x => (Err.te x).causeCode) = [1, 2, 3, 4, 5, 6] ∧
  (∀ (n : Nat) (z : Int) (p : List Tap) (t : Tap),
    [PieCause.frameTooLarge n, .bitCount n, .byteAlign n, .emptyWrite, .tmsLength n, .readBitsBound n, .readBytesBound n,
      .carryPending, .invalidPath p, .noPath t, .providerValue z].map (fun x => (Err.pie x).causeCode) =
      [1, 2, 3, 4, 5, 6, 7, 8, 9, 10, 11]) ∧
  [CmeCause.sessionClosed, .alreadyOpen].map (fun x => (Err.cme x).causeCode) = [1, 2]

/-- 60_exceptions.md R254: in a closed session every operation of the two upper groups but `open` raises
`CME.SessionClosed` and changes nothing, and so does a frame requested in an operation's place (log 2: the
model's reading of the opcode table); the TapGraph operations
do in a closed session what they do in an open one. -/
def Obligations.ClosedSessionRefuses : Prop :=
  (∀ (s : State) (i : Instr), s.session = .closed →
    needsSession i = true ∨ (isFrame i = true ∧ s.turn = .block) →
    exec i s = refuses (.cme .sessionClosed) s) ∧
  ∀ (s t : State) (i : Instr) (x : Session), writesBuf i = false → exec i s = .next t →
    t.reply ≠ some (.error (.cme .sessionClosed)) ∧ exec i { s with session := x } = .next { t with session := x }

/-- 60_exceptions.md R256: every `CME` and every `PIE` is raised before any effect: the state differs from the one
before only in the outcome delivered. -/
def Obligations.EarlyErrorsHaveNoEffect : Prop :=
  ∀ (s t : State) (i : Instr) (e : Err), s.cfg.wf = true → (isFrame i = true → s.turn = .block) →
    exec i s = .next t → t.reply = some (.error e) → e.isEarly = true → exec i s = refuses e s

/-- 60_exceptions.md R257, 41_framing.md R141: after a `TE` of any operation but `open` the buffer is empty and the
carry clear, session and mask are kept, and the calls already made stay made. A failed `open` leaves the block as it was: 42_engine.md R180,
which the model follows against R141 and R257 (log 10). -/
def Obligations.TransportErrorEmptiesBlock : Prop :=
  ∀ (s t : State) (i : Instr) (cause : TeCause), exec i s = .next t →
    (isFrame i = true → s.turn = .block) → t.reply = some (.error (.te cause)) →
    t.session = s.session ∧ t.dir = s.dir ∧ s.events <+: t.events ∧
    (cause = .openFailed → t.buf = s.buf ∧ t.carryV = s.carryV ∧ t.carryB = s.carryB ∧ t.tap = s.tap) ∧
    (cause ≠ .openFailed → t.buf = [] ∧ t.carryV = false ∧ t.carryB = false) ∧
    (i = .reset → t.tap = s.tap)

/-- 41_framing.md R141, 70_reset_and_hazards.md R293 (log 9): after a `TE` the remote TAP may be in any state and its line is
unknown, and less than a frame stands on the wire. Where the operation has handed over and taken no bytes, the responses are
those that stood when it began, and nothing stands on the wire if nothing did (20_memory.md R58); the link is then as a fetch
leaves it, with less than a frame on its wire. -/
def Obligations.TransportErrorLosesRemote : Prop :=
  ∀ (s t : State) (i : Instr) (cause : TeCause), exec i s = .next t →
    (isFrame i = true → s.turn = .block) → t.reply = some (.error (.te cause)) →
    t.link.poss = allTaps ∧ t.link.tms = none ∧ decodeFrame t.cfg t.link.wire.flatten = .error .truncated ∧
    (decodeFrame s.cfg s.began.link.wire.flatten = .error .truncated →
      (∀ e ∈ t.events.drop s.began.calls, movesBytes e = false) →
      t.link.out = s.began.link.out ∧
      (s.began.link.wire.flatten = [] → t.link.wire.flatten = []))

/-- 10_state.md R32: which operations write which fields. A field an operation does not write is as before; the
parameters, the requests and the provider's answers are never written; events are only added. -/
def Obligations.WriteAccessTable : Prop :=
  ∀ (s t : State) (i : Instr), exec i s = .next t →
    (isFrame i = true → s.turn = .block) →
    t.cfg = s.cfg ∧ t.requests = s.requests ∧ t.prov = s.prov ∧ t.began = s.began ∧ t.turn = s.turn ∧ s.events <+: t.events ∧
    (writesSession i = false → t.session = s.session) ∧ (writesDir i = false → t.dir = s.dir) ∧
    (writesTap i = false → t.tap = s.tap) ∧
    (writesBuf i = false → t.buf = s.buf ∧ t.carryV = s.carryV ∧ t.carryB = s.carryB ∧ t.link = s.link ∧
      t.events = s.events ∧ t.inp = s.inp) ∧
    (writesCarry i = false → isFrame i = false → (∀ cause, t.reply ≠ some (.error (.te cause))) →
      t.carryV = s.carryV ∧ t.carryB = s.carryB)

/-- 20_memory.md R41: the buffer is append-only: an operation that sends nothing leaves every byte already queued where
it was. -/
def Obligations.BufferIsAppendOnly : Prop :=
  ∀ (s t : State) (i : Instr), exec i s = .next t → t.events = s.events → ∀ a, a < s.buf.length → t.buf[a]? = s.buf[a]?

/-- The outcome of every instruction is a next state: an error ends the operation, not the machine (60_exceptions.md
R258, R260). -/
def Obligations.EveryInstructionEnds : Prop :=
  ∀ (s : State) (i : Instr), ∃ t, exec i s = .next t ∧
    (s.turn = .block ∨ isFrame i = false → ∃ r, t.reply = some r)

/-- 10_state.md R33's invariants at power-on. -/
def Obligations.InvariantAtPowerOn : Prop := State.reset.Inv

/-- 10_state.md R33: every step keeps the invariants: the buffer in its bound, no carry value without its flag, nothing
queued or pending in a closed session; beside them well-formed parameters (log 3), a pin mask within its width (log 24) and a
well-formed link. -/
def Obligations.StepKeepsInvariant : Prop :=
  ∀ s t : State, s.Inv → step s = .next t → t.Inv

/-! ## The link and target -/

/-- The opcode table's semantics rules (log 2): a frame that the host requests runs as the operation whose encoding it
is. -/
def Obligations.RequestedFrameRunsItsOperation : Prop :=
  ∀ s : State, s.turn = .block →
    (∀ b, exec (.wbits b) s = exec (.writeBits b) s) ∧ (∀ b, exec (.wbytes b) s = exec (.writeBytes b) s) ∧
    (∀ ev d, exec (.wtms ev d) s = exec (.writeTms ev) s) ∧ (∀ n, exec (.rbits n) s = exec (.readBits n) s) ∧
    (∀ n, exec (.rbytes n) s = exec (.readBytes n) s) ∧ ∀ b, exec (.rwbytes b) s = exec (.shiftBytes b) s

/-- 43_link_model.md R223, R224: a `WTMS` frame moves the remote TAP by its events from every state it may be in and
leaves the line at the last event; the block is untouched. From a known state one event shifts the frame's TDI bit where
the state left is a shift state, captures on entering a capture state and updates on entering an update state (R224, R232,
R234), and nothing else; further events follow one after the other with the same TDI bit. -/
def Obligations.TmsFrameMovesRemote : Prop :=
  (∀ (s : State) (ev : Bits) (d : Bool), s.turn = .link →
    ∃ l, exec (.wtms ev d) s = .next { s with link := l } ∧
      (∀ t, t ∈ l.poss ↔ ∃ u ∈ s.link.poss, applyEvents u ev = t) ∧
      (∀ e, ev.getLast? = some e → l.tms = some e) ∧ l.out = s.link.out ∧ l.wire = s.link.wire ∧
      l.torn = s.link.torn) ∧
  (∀ (s : State) (m d : Bool) (u : Tap), s.turn = .link → s.link.poss = [u] →
    ∃ k, exec (.wtms [m] d) s = .next { s with link := { s.link with
      poss := [nxt u m], tms := some m, free := k
      drSh := if nxt u m = .capdr then bitsOfNat s.cfg.drLen s.cfg.drCapture
        else if u = .shdr then shiftedIn s.link.drSh [d] else s.link.drSh
      irSh := if nxt u m = .capir then bitsOfNat s.cfg.irLen s.cfg.irCapture
        else if u = .shir then shiftedIn s.link.irSh [d] else s.link.irSh
      drUpd := if nxt u m = .updr then s.link.drSh else s.link.drUpd
      irUpd := if nxt u m = .upir then s.link.irSh else s.link.irUpd } }) ∧
  ∀ (s t : State) (m d : Bool) (ev : Bits), s.turn = .link → ev ≠ [] → exec (.wtms [m] d) s = .next t →
    exec (.wtms (m :: ev) d) s = exec (.wtms ev d) t

/-- 43_link_model.md R222, R224, R225, R226: the frames with data clocks hold the TMS line, one clock for each bit written or
read: a known remote TAP moves once for each clock at that level; with the level unknown it may be anywhere. `RBITS`
answers one byte, `RBYTES` one for each byte read, `RWBYTES` one for each byte written, the others nothing. -/
def Obligations.DataFramesHoldTms : Prop :=
  ∀ (s : State) (i : Instr) (clocks answers : Nat),
    (∃ b, (i = .wbits b ∨ i = .wbytes b) ∧ clocks = b.length ∧ answers = 0) ∨
      (∃ b, i = .rwbytes b ∧ b.length % 8 = 0 ∧ clocks = b.length ∧ answers = b.length / 8) ∨
      (i = .rbits clocks ∧ answers = 1) ∨ (i = .rbytes answers ∧ clocks = 8 * answers) → s.turn = .link →
    ∃ l, exec i s = .next { s with link := l } ∧ l.tms = s.link.tms ∧ l.wire = s.link.wire ∧ l.torn = s.link.torn ∧
      (∀ m, s.link.tms = some m →
        ∀ t, t ∈ l.poss ↔ ∃ u ∈ s.link.poss, applyEvents u (List.replicate clocks m) = t) ∧
      (s.link.tms = none → 0 < clocks → l.poss = allTaps) ∧
      s.link.out <+: l.out ∧ l.out.length = s.link.out.length + answers

/-- 43_link_model.md R224, R233: data clocks in Shift-DR or Shift-IR with the line at 0 shift the register: bits in at
the top in order, the same number out at the bottom; the other registers stay. -/
def Obligations.ShiftClocksMoveRegister : Prop :=
  ∀ (s : State) (b : Bits) (i : Instr), i = .wbits b ∨ i = .wbytes b → s.turn = .link → s.link.tms = some false →
    (s.link.poss = [.shdr] → s.link.drSh ≠ [] →
      exec i s = .next { s with link := { s.link with drSh := (s.link.drSh ++ b).drop b.length } }) ∧
    (s.link.poss = [.shir] → s.link.irSh ≠ [] →
      exec i s = .next { s with link := { s.link with irSh := (s.link.irSh ++ b).drop b.length } })

/-- 43_link_model.md R222, R225, R226: wherever the remote TAP is, a read frame answers its bytes and leaves the block and
the line alone; in Shift-DR and Shift-IR with the line at 0 the frames that collect TDO answer the bits the register
shifts out, with `READ_TDI`, or for `RWBYTES` its own bits, shifted in, and change nothing else. -/
def Obligations.ReadFramesAnswerRegister : Prop :=
  (∀ (s : State) (n : Nat), s.turn = .link →
    (∃ l r, exec (.rbits n) s = .next { s with link := l } ∧ l.out = s.link.out ++ [r] ∧ l.tms = s.link.tms ∧
      l.wire = s.link.wire) ∧
    ∃ l r, exec (.rbytes n) s = .next { s with link := l } ∧ l.out = s.link.out ++ r ∧ r.length = n ∧
      l.tms = s.link.tms ∧ l.wire = s.link.wire) ∧
  (∀ (s : State) (n : Nat) (d : Bits), s.turn = .link → s.link.tms = some false → 1 ≤ n → n ≤ 8 →
    d = List.replicate n s.cfg.readTdi →
    (s.link.poss = [.shdr] → s.link.drSh ≠ [] → ∃ r k, exec (.rbits n) s = .next { s with link := { s.link with
        drSh := shiftedIn s.link.drSh d, out := s.link.out ++ [r], free := k } } ∧
      justified s.cfg n r = shiftedOut s.link.drSh d) ∧
    (s.link.poss = [.shir] → s.link.irSh ≠ [] → ∃ r k, exec (.rbits n) s = .next { s with link := { s.link with
        irSh := shiftedIn s.link.irSh d, out := s.link.out ++ [r], free := k } } ∧
      justified s.cfg n r = shiftedOut s.link.irSh d)) ∧
  ∀ (s : State) (i : Instr) (d : Bits), s.turn = .link → s.link.tms = some false →
    (∃ n, i = .rbytes n ∧ d = List.replicate (8 * n) s.cfg.readTdi) ∨ (i = .rwbytes d ∧ d.length % 8 = 0) →
    (s.link.poss = [.shdr] → s.link.drSh ≠ [] → ∃ r, exec i s = .next { s with link := { s.link with
        drSh := shiftedIn s.link.drSh d, out := s.link.out ++ r } } ∧
      r.length = d.length / 8 ∧ unpackBytes r = shiftedOut s.link.drSh d) ∧
    (s.link.poss = [.shir] → s.link.irSh ≠ [] → ∃ r, exec i s = .next { s with link := { s.link with
        irSh := shiftedIn s.link.irSh d, out := s.link.out ++ r } } ∧
      r.length = d.length / 8 ∧ unpackBytes r = shiftedOut s.link.irSh d)

/-- 43_link_model.md R236, first point: a successful `reset` synchronises the block from any link state, with or
without the reset pin, if no half frame of the host's own is left on the wire; half a frame that a failed call left does not
matter (93_implementation_defined.md I8; log 27). R229: of the link its two pin changes write the line, where the TMS pin is driven,
and make the remote TAP TLR, where the reset pin is driven and the target has one; they change no register and no response; then
the frame is handed over. -/
def Obligations.ResetSynchronises : Prop :=
  (∀ s t : State, s.cfg.wf = true → s.link.wf s.cfg = true → s.remote.stream = [] ∨ s.link.torn = true →
    exec .reset s = .next t → t.reply = some (.ok .none) → t.Synchronised ∧ t.tap = .tlr) ∧
  ∀ (s t : State) (l : Link) (v : PinMask), s.cfg.wf = true → exec .reset s = .next t → t.reply = some (.ok .none) →
    l = (if s.buf = [] then s else s.sent).link.settle s.cfg →
    v = (if s.cfg.trstActiveLow then s.cfg.pinIdle ||| s.cfg.pinTrst
      else s.cfg.pinIdle.without s.cfg.dirWidth s.cfg.pinTrst) →
    t.link = { l with
      tms := if s.dir &&& s.cfg.pinTms ≠ 0 then some (decide (v &&& s.cfg.pinTms ≠ 0)) else l.tms
      poss := if s.dir &&& s.cfg.pinTrst ≠ 0 ∧ s.cfg.targetHasTrst = true then [.tlr] else l.poss
      torn := false
      wire := (if s.link.torn then [] else l.wire) ++ [[s.cfg.opcWtms, 0x04#8, 0x1F#8 |||
        (if (if s.carryV then s.carryB else s.cfg.tmsTdiDefault) then 0x80#8 else 0x00#8)]] }

/-- 43_link_model.md R236, second and third points: an operation that returns without error keeps the block
synchronised, provided its data frames are queued in a stable state; those of 42_engine.md always are. -/
def Obligations.OperationsKeepSynchronised : Prop :=
  ∀ (s t : State) (i : Instr) (v : Value), s.Inv → s.Synchronised →
    keepsPlace i = true ∨ (clocksInPlace i = true ∧ stable s.tap = true) →
    exec i s = .next t → t.reply = some (.ok v) → t.Synchronised

/-- 43_link_model.md R237: a synchronised `write_dr` or `write_ir` of a register's length lands whole: once its frames
are interpreted, the update latch holds the written bits. -/
def Obligations.RegisterWriteLands : Prop :=
  ∀ (s t : State) (b : Bits), s.Inv → s.Synchronised →
    (b.length = s.cfg.drLen → exec (.writeDr b) s = .next t → t.reply = some (.ok .none) → t.remote.drUpd = b) ∧
    (b.length = s.cfg.irLen → exec (.writeIr b) s = .next t → t.reply = some (.ok .none) → t.remote.irUpd = b)

/-- 43_link_model.md R233, R237: a synchronised `read_dr` of the register's length, from every state whose route to Shift-DR
enters Capture-DR, over the reference link, returns the captured value bit by bit. -/
def Obligations.ReadDrReturnsCapture : Prop :=
  ∀ s : State, s.Inv → s.Synchronised → s.session = .opened → s.carryFree → s.tap ∉ [Tap.capdr, .shdr, .ex1dr, .pdr, .ex2dr] →
    s.inp = [] → s.remote.out = [] → s.fits 12 → s.cfg.drLen / 8 ≤ s.cfg.readBytesMax →
    ∃ t, exec (.readDr s.cfg.drLen) s = .next t ∧
      t.reply = some (.ok (.bits (bitsOfNat s.cfg.drLen s.cfg.drCapture)))
end

