-- ==== Sys2Proof/Laws/Decode.lean ====
section
/-! SUPPORT. Bits to bytes and back, and what the decoder takes off a byte list. -/

namespace Sys2Proof

/-! ## Numbers -/

theorem natOfBits_lt (b : Bits) : natOfBits b < 2 ^ b.length := by
  induction b with
  | nil => simp [natOfBits]
  | cons x b ih =>
    have : x.toNat ≤ 1 := by cases x <;> decide
    simp only [natOfBits, List.length_cons, Nat.pow_succ]
    omega

theorem natOfBits_testBit (b : Bits) (i : Nat) : (natOfBits b).testBit i = b.getD i false := by
  induction b generalizing i with
  | nil => simp [natOfBits]
  | cons x b ih =>
    cases i with
    | zero => cases x <;> simp [natOfBits, Nat.testBit_zero]
    | succ i =>
      have : (x.toNat + 2 * natOfBits b) / 2 = natOfBits b := by cases x <;> simp <;> omega
      simp [natOfBits, Nat.testBit_succ, this, ih]

theorem bitsOfNat_length (n v : Nat) : (bitsOfNat n v).length = n := by simp [bitsOfNat]

/-- The bits of the number of a sequence are the sequence (00_scope.md R10). -/
theorem bitsOfNat_natOfBits (b : Bits) : bitsOfNat b.length (natOfBits b) = b := by
  apply List.ext_getElem (by simp [bitsOfNat])
  intro i h₁ h₂
  simp [bitsOfNat, natOfBits_testBit, h₂]

/-! ## Bytes -/

@[simp] theorem unpack8_length (x : Byte) (n : Nat) : (unpack8 x n).length = n := by simp [unpack8]

theorem pack8_getLsbD (b : Bits) (i : Nat) (hi : i < 8) : (pack8 b).getLsbD i = b.getD i false := by
  rw [pack8, BitVec.getLsbD_ofNat, natOfBits_testBit]
  simp [hi]

/-- Packing at most 8 bits loses none (R9). -/
theorem unpack8_pack8 (b : Bits) (h : b.length ≤ 8) : unpack8 (pack8 b) b.length = b := by
  apply List.ext_getElem (by simp)
  intro i h₁ h₂
  simp [unpack8, pack8_getLsbD b i (by omega), h₂]

@[simp] theorem unpackBytes_nil : unpackBytes [] = [] := rfl

@[simp] theorem unpackBytes_cons (x : Byte) (bs : List Byte) :
    unpackBytes (x :: bs) = unpack8 x 8 ++ unpackBytes bs := rfl

@[simp] theorem unpackBytes_length (bs : List Byte) : (unpackBytes bs).length = 8 * bs.length := by
  induction bs with
  | nil => rfl
  | cons x bs ih => simp [ih]; omega

@[simp] theorem packBytesN_length (n : Nat) (b : Bits) : (packBytesN n b).length = n := by
  induction n generalizing b with
  | zero => rfl
  | succ n ih => simp [packBytesN, ih]

@[simp] theorem packBytes_length (b : Bits) : (packBytes b).length = b.length / 8 := by simp [packBytes]

theorem unpackBytes_packBytesN (n : Nat) (b : Bits) (h : b.length = 8 * n) : unpackBytes (packBytesN n b) = b := by
  induction n generalizing b with
  | zero => simpa [packBytesN, eq_comm] using h
  | succ n ih =>
    have h8 : (b.take 8).length = 8 := by simp; omega
    have := unpack8_pack8 (b.take 8) (by omega)
    rw [h8] at this
    simp [packBytesN, this, ih (b.drop 8) (by simp; omega)]

/-- Packing whole bytes loses no bit (R9). -/
theorem unpackBytes_packBytes (b : Bits) (h : b.length % 8 = 0) : unpackBytes (packBytes b) = b :=
  unpackBytes_packBytesN _ b (by omega)

/-! ## Length fields -/

theorem len8_toNat (n : Nat) (h : n ≤ 256) : (len8 n).toNat = n - 1 := by
  simp [len8]
  omega

/-- A 2-byte length field holds its count (R43, R71). -/
theorem countOf16_len16 (n : Nat) (h : 1 ≤ n) (h' : n ≤ 65536) :
    countOf16 (BitVec.ofNat 8 (n - 1)) (BitVec.ofNat 8 ((n - 1) / 256)) = n := by
  simp [countOf16]
  omega

/-! ## Frames -/

theorem encodeFrame_length (c : Config) (f : Frame) : (encodeFrame c f).length = f.size := by
  cases f <;> simp [encodeFrame, Frame.size, len16] <;> omega

theorem encodeFrame_ne_nil (c : Config) (f : Frame) : encodeFrame c f ≠ [] := by
  cases f <;> simp [encodeFrame]

theorem decodeWbits_shorter {bs rest : List Byte} {f : Frame} (h : decodeWbits bs = .ok (f, rest)) :
    ∃ k, rest = bs.drop k ∧ k ≤ bs.length := by
  match bs, h with
  | n :: p :: tl, h =>
    simp only [decodeWbits] at h
    split at h <;> simp at h
    exact ⟨2, by simp [h.2], by simp⟩

theorem decodeWtms_shorter {bs rest : List Byte} {f : Frame} (h : decodeWtms bs = .ok (f, rest)) :
    ∃ k, rest = bs.drop k ∧ k ≤ bs.length := by
  match bs, h with
  | n :: p :: tl, h =>
    simp only [decodeWtms] at h
    split at h <;> simp at h
    exact ⟨2, by simp [h.2], by simp⟩

theorem decodeRbits_shorter {bs rest : List Byte} {f : Frame} (h : decodeRbits bs = .ok (f, rest)) :
    ∃ k, rest = bs.drop k ∧ k ≤ bs.length := by
  match bs, h with
  | n :: tl, h =>
    simp only [decodeRbits] at h
    split at h <;> simp at h
    exact ⟨1, by simp [h.2], by simp⟩

theorem decodeRbytes_shorter {bs rest : List Byte} {f : Frame} (h : decodeRbytes bs = .ok (f, rest)) :
    ∃ k, rest = bs.drop k ∧ k ≤ bs.length := by
  match bs, h with
  | lo :: hi :: tl, h =>
    simp only [decodeRbytes] at h
    simp at h
    exact ⟨2, by simp [h.2], by simp⟩

theorem decodePayload_shorter {mk : Bits → Frame} {bs rest : List Byte} {f : Frame}
    (h : decodePayload mk bs = .ok (f, rest)) : ∃ k, rest = bs.drop k ∧ k ≤ bs.length := by
  match bs, h with
  | lo :: hi :: tl, h =>
    simp only [decodePayload] at h
    split at h <;> simp at h
    exact ⟨2 + countOf16 lo hi, by simp [← h.2, Nat.add_comm 2], by simp; omega⟩

/-- A decoded frame takes at least one byte off the front and leaves the rest as it was (R81). -/
theorem decodeFrame_rest {c : Config} {bs rest : List Byte} {f : Frame} (h : decodeFrame c bs = .ok (f, rest)) :
    ∃ k, rest = bs.drop (k + 1) ∧ k + 1 ≤ bs.length := by
  match bs, h with
  | op :: tl, h =>
    suffices ∃ k, rest = tl.drop k ∧ k ≤ tl.length by
      obtain ⟨k, hk, hl⟩ := this
      exact ⟨k, by simpa using hk, by simpa using hl⟩
    simp only [decodeFrame] at h
    split at h
    · exact decodeWbits_shorter h
    · split at h
      · exact decodePayload_shorter h
      · split at h
        · exact decodeWtms_shorter h
        · split at h
          · exact decodeRbits_shorter h
          · split at h
            · exact decodeRbytes_shorter h
            · split at h
              · exact decodePayload_shorter h
              · simp at h

end Sys2Proof
end

