-- ==== Sys2Proof/Laws/Graph.lean ====
section
/-! SUPPORT. The TAP graph: its edges, the events of a path, and what a route is. -/

namespace Sys2Proof.Machine

/-! ## Edges -/

theorem mem_allTaps (t : Tap) : t ∈ allTaps := by cases t <;> decide

theorem nxt_injective (s : Tap) : nxt s false ≠ nxt s true := by cases s <;> decide

/-- An edge into a state carries the state's entry value (R114). -/
theorem event_of_edge {s d : Tap} {e : Bool} (h : nxt s e = d) : e = entry d := by
  subst h
  cases s <;> cases e <;> rfl

/-- At most one edge joins two states (R111). -/
theorem edgesTo_cases (s d : Tap) : (edgesTo s d = [entry d] ∧ nxt s (entry d) = d) ∨
    (edgesTo s d = [] ∧ ∀ e, nxt s e ≠ d) := by
  cases s <;> cases d <;> decide

theorem edgesTo_length_le (s d : Tap) : (edgesTo s d).length ≤ 1 := by
  obtain ⟨h, -⟩ | ⟨h, -⟩ := edgesTo_cases s d <;> simp [h]

/-! ## Events -/

@[simp] theorem applyEvents_nil (t : Tap) : applyEvents t [] = t := rfl

@[simp] theorem applyEvents_cons (t : Tap) (e : Bool) (ev : Bits) :
    applyEvents t (e :: ev) = applyEvents (nxt t e) ev := rfl

@[simp] theorem applyEvents_append (t : Tap) (a b : Bits) :
    applyEvents t (a ++ b) = applyEvents (applyEvents t a) b := by
  simp [applyEvents]

/-- A stable state stays under the value that entered it (R117). -/
theorem applyEvents_stable {t : Tap} (h : stable t = true) (n : Nat) :
    applyEvents t (List.replicate n (entry t)) = t := by
  have h : nxt t (entry t) = t := by simpa [stable] using h
  induction n with
  | zero => rfl
  | succ n ih => simp [List.replicate_succ, h, ih]

/-- A path has at most one event for each pair (R124). -/
theorem pathEdges_length_lt (s : Tap) (p : List Tap) : (pathEdges (s :: p)).length ≤ p.length := by
  induction p generalizing s with
  | nil => simp [pathEdges]
  | cons d p ih =>
    have := edgesTo_length_le s d
    have := ih d
    simp only [pathEdges, List.length_append, List.length_cons]
    omega

/-! ## Routes -/

/-- The search always finds a path, its events lead to the target, and there are at most 8 (R122, R127). -/
theorem route_ok (source target : Tap) :
    ∃ ev, route source target = .ok ev ∧ applyEvents source ev = target ∧ ev.length ≤ 8 ∧
      (ev = [] ↔ source = target) := by
  cases source <;> cases target <;> exact ⟨_, rfl, rfl, by decide, by decide⟩

/-- The last event of a route is the target's entry value, so the line is left at it (R114). -/
theorem route_level (source target : Tap) (ev : Bits) (h : route source target = .ok ev) :
    ev = [] ∨ ev.getLast? = some (entry target) := by
  obtain ⟨ev', h', ha, -⟩ := route_ok source target
  obtain rfl : ev' = ev := by simpa [h] using h'.symm
  rcases List.eq_nil_or_concat ev' with rfl | ⟨init, e, rfl⟩
  · exact .inl rfl
  · right
    rw [List.concat_eq_append] at ha ⊢
    rw [applyEvents_append] at ha
    simp [← event_of_edge ha]

/-- Every route out of a shift state raises TMS first (43_link_model.md R237). -/
theorem route_leaves_shift (source target : Tap) (hs : isShift source = true) (hne : source ≠ target) :
    ∃ rest, route source target = .ok (true :: rest) := by
  cases source <;> simp [isShift] at hs <;> cases target <;> first | exact absurd rfl hne | exact ⟨_, rfl⟩

end Sys2Proof.Machine
end

