-- ==== Sys2Proof/Laws/State.lean ====
section
/-! SUPPORT. What each update of the state leaves in each field. -/

namespace Sys2Proof.Machine

@[simp] theorem record_cfg (e : TxEvent) (s : State) : (s.record e).cfg = s.cfg := rfl
@[simp] theorem record_session (e : TxEvent) (s : State) : (s.record e).session = s.session := rfl
@[simp] theorem record_tap (e : TxEvent) (s : State) : (s.record e).tap = s.tap := rfl
@[simp] theorem record_buf (e : TxEvent) (s : State) : (s.record e).buf = s.buf := rfl
@[simp] theorem record_carryV (e : TxEvent) (s : State) : (s.record e).carryV = s.carryV := rfl
@[simp] theorem record_carryB (e : TxEvent) (s : State) : (s.record e).carryB = s.carryB := rfl
@[simp] theorem record_dir (e : TxEvent) (s : State) : (s.record e).dir = s.dir := rfl
@[simp] theorem record_link (e : TxEvent) (s : State) : (s.record e).link = s.link := rfl
@[simp] theorem record_events (e : TxEvent) (s : State) : (s.record e).events = s.events ++ [e] := rfl
@[simp] theorem record_reply (e : TxEvent) (s : State) : (s.record e).reply = s.reply := rfl
@[simp] theorem record_inp (e : TxEvent) (s : State) : (s.record e).inp = s.inp := rfl
@[simp] theorem record_prov (e : TxEvent) (s : State) : (s.record e).prov = s.prov := rfl
@[simp] theorem record_requests (e : TxEvent) (s : State) : (s.record e).requests = s.requests := rfl
@[simp] theorem record_began (e : TxEvent) (s : State) : (s.record e).began = s.began := rfl
@[simp] theorem record_turn (e : TxEvent) (s : State) : (s.record e).turn = s.turn := rfl

@[simp] theorem popAnswer_cfg (s : State) : (s.popAnswer).cfg = s.cfg := rfl
@[simp] theorem popAnswer_session (s : State) : (s.popAnswer).session = s.session := rfl
@[simp] theorem popAnswer_tap (s : State) : (s.popAnswer).tap = s.tap := rfl
@[simp] theorem popAnswer_buf (s : State) : (s.popAnswer).buf = s.buf := rfl
@[simp] theorem popAnswer_carryV (s : State) : (s.popAnswer).carryV = s.carryV := rfl
@[simp] theorem popAnswer_carryB (s : State) : (s.popAnswer).carryB = s.carryB := rfl
@[simp] theorem popAnswer_dir (s : State) : (s.popAnswer).dir = s.dir := rfl
@[simp] theorem popAnswer_link (s : State) : (s.popAnswer).link = s.link := rfl
@[simp] theorem popAnswer_events (s : State) : (s.popAnswer).events = s.events := rfl
@[simp] theorem popAnswer_reply (s : State) : (s.popAnswer).reply = s.reply := rfl
@[simp] theorem popAnswer_inp (s : State) : (s.popAnswer).inp = s.inp.tail := rfl
@[simp] theorem popAnswer_prov (s : State) : (s.popAnswer).prov = s.prov := rfl
@[simp] theorem popAnswer_requests (s : State) : (s.popAnswer).requests = s.requests := rfl
@[simp] theorem popAnswer_began (s : State) : (s.popAnswer).began = s.began := rfl
@[simp] theorem popAnswer_turn (s : State) : (s.popAnswer).turn = s.turn := rfl

@[simp] theorem setCarry_cfg (b : Bool) (s : State) : (setCarry b s).cfg = s.cfg := rfl
@[simp] theorem setCarry_session (b : Bool) (s : State) : (setCarry b s).session = s.session := rfl
@[simp] theorem setCarry_tap (b : Bool) (s : State) : (setCarry b s).tap = s.tap := rfl
@[simp] theorem setCarry_buf (b : Bool) (s : State) : (setCarry b s).buf = s.buf := rfl
@[simp] theorem setCarry_carryV (b : Bool) (s : State) : (setCarry b s).carryV = true := rfl
@[simp] theorem setCarry_carryB (b : Bool) (s : State) : (setCarry b s).carryB = b := rfl
@[simp] theorem setCarry_dir (b : Bool) (s : State) : (setCarry b s).dir = s.dir := rfl
@[simp] theorem setCarry_link (b : Bool) (s : State) : (setCarry b s).link = s.link := rfl
@[simp] theorem setCarry_events (b : Bool) (s : State) : (setCarry b s).events = s.events := rfl
@[simp] theorem setCarry_reply (b : Bool) (s : State) : (setCarry b s).reply = s.reply := rfl
@[simp] theorem setCarry_inp (b : Bool) (s : State) : (setCarry b s).inp = s.inp := rfl
@[simp] theorem setCarry_prov (b : Bool) (s : State) : (setCarry b s).prov = s.prov := rfl
@[simp] theorem setCarry_requests (b : Bool) (s : State) : (setCarry b s).requests = s.requests := rfl
@[simp] theorem setCarry_began (b : Bool) (s : State) : (setCarry b s).began = s.began := rfl
@[simp] theorem setCarry_turn (b : Bool) (s : State) : (setCarry b s).turn = s.turn := rfl

@[simp] theorem clearCarry_cfg (s : State) : (clearCarry s).cfg = s.cfg := rfl
@[simp] theorem clearCarry_session (s : State) : (clearCarry s).session = s.session := rfl
@[simp] theorem clearCarry_tap (s : State) : (clearCarry s).tap = s.tap := rfl
@[simp] theorem clearCarry_buf (s : State) : (clearCarry s).buf = s.buf := rfl
@[simp] theorem clearCarry_carryV (s : State) : (clearCarry s).carryV = false := rfl
@[simp] theorem clearCarry_carryB (s : State) : (clearCarry s).carryB = false := rfl
@[simp] theorem clearCarry_dir (s : State) : (clearCarry s).dir = s.dir := rfl
@[simp] theorem clearCarry_link (s : State) : (clearCarry s).link = s.link := rfl
@[simp] theorem clearCarry_events (s : State) : (clearCarry s).events = s.events := rfl
@[simp] theorem clearCarry_reply (s : State) : (clearCarry s).reply = s.reply := rfl
@[simp] theorem clearCarry_inp (s : State) : (clearCarry s).inp = s.inp := rfl
@[simp] theorem clearCarry_prov (s : State) : (clearCarry s).prov = s.prov := rfl
@[simp] theorem clearCarry_requests (s : State) : (clearCarry s).requests = s.requests := rfl
@[simp] theorem clearCarry_began (s : State) : (clearCarry s).began = s.began := rfl
@[simp] theorem clearCarry_turn (s : State) : (clearCarry s).turn = s.turn := rfl

@[simp] theorem bufAppend_cfg (f : List Byte) (s : State) : (bufAppend f s).cfg = s.cfg := rfl
@[simp] theorem bufAppend_session (f : List Byte) (s : State) : (bufAppend f s).session = s.session := rfl
@[simp] theorem bufAppend_tap (f : List Byte) (s : State) : (bufAppend f s).tap = s.tap := rfl
@[simp] theorem bufAppend_buf (f : List Byte) (s : State) : (bufAppend f s).buf = s.buf ++ f := rfl
@[simp] theorem bufAppend_carryV (f : List Byte) (s : State) : (bufAppend f s).carryV = s.carryV := rfl
@[simp] theorem bufAppend_carryB (f : List Byte) (s : State) : (bufAppend f s).carryB = s.carryB := rfl
@[simp] theorem bufAppend_dir (f : List Byte) (s : State) : (bufAppend f s).dir = s.dir := rfl
@[simp] theorem bufAppend_link (f : List Byte) (s : State) : (bufAppend f s).link = s.link := rfl
@[simp] theorem bufAppend_events (f : List Byte) (s : State) : (bufAppend f s).events = s.events := rfl
@[simp] theorem bufAppend_reply (f : List Byte) (s : State) : (bufAppend f s).reply = s.reply := rfl
@[simp] theorem bufAppend_inp (f : List Byte) (s : State) : (bufAppend f s).inp = s.inp := rfl
@[simp] theorem bufAppend_prov (f : List Byte) (s : State) : (bufAppend f s).prov = s.prov := rfl
@[simp] theorem bufAppend_requests (f : List Byte) (s : State) : (bufAppend f s).requests = s.requests := rfl
@[simp] theorem bufAppend_began (f : List Byte) (s : State) : (bufAppend f s).began = s.began := rfl
@[simp] theorem bufAppend_turn (f : List Byte) (s : State) : (bufAppend f s).turn = s.turn := rfl

@[simp] theorem delay_cfg (s : State) : (delay s).cfg = s.cfg := rfl
@[simp] theorem delay_session (s : State) : (delay s).session = s.session := rfl
@[simp] theorem delay_tap (s : State) : (delay s).tap = s.tap := rfl
@[simp] theorem delay_buf (s : State) : (delay s).buf = s.buf := rfl
@[simp] theorem delay_carryV (s : State) : (delay s).carryV = s.carryV := rfl
@[simp] theorem delay_carryB (s : State) : (delay s).carryB = s.carryB := rfl
@[simp] theorem delay_dir (s : State) : (delay s).dir = s.dir := rfl
@[simp] theorem delay_link (s : State) : (delay s).link = s.link := rfl
@[simp] theorem delay_events (s : State) : (delay s).events = s.events ++ [.delay s.cfg.settleDelay] := rfl
@[simp] theorem delay_reply (s : State) : (delay s).reply = s.reply := rfl
@[simp] theorem delay_inp (s : State) : (delay s).inp = s.inp := rfl
@[simp] theorem delay_prov (s : State) : (delay s).prov = s.prov := rfl
@[simp] theorem delay_requests (s : State) : (delay s).requests = s.requests := rfl
@[simp] theorem delay_began (s : State) : (delay s).began = s.began := rfl
@[simp] theorem delay_turn (s : State) : (delay s).turn = s.turn := rfl

@[simp] theorem fetchFrame_cfg (n : Nat) (s : State) : (s.fetchFrame n).cfg = s.cfg := rfl
@[simp] theorem fetchFrame_session (n : Nat) (s : State) : (s.fetchFrame n).session = s.session := rfl
@[simp] theorem fetchFrame_tap (n : Nat) (s : State) : (s.fetchFrame n).tap = s.tap := rfl
@[simp] theorem fetchFrame_buf (n : Nat) (s : State) : (s.fetchFrame n).buf = s.buf := rfl
@[simp] theorem fetchFrame_carryV (n : Nat) (s : State) : (s.fetchFrame n).carryV = s.carryV := rfl
@[simp] theorem fetchFrame_carryB (n : Nat) (s : State) : (s.fetchFrame n).carryB = s.carryB := rfl
@[simp] theorem fetchFrame_dir (n : Nat) (s : State) : (s.fetchFrame n).dir = s.dir := rfl
@[simp] theorem fetchFrame_link (n : Nat) (s : State) : (s.fetchFrame n).link = s.link.keep n := rfl
@[simp] theorem fetchFrame_events (n : Nat) (s : State) : (s.fetchFrame n).events = s.events := rfl
@[simp] theorem fetchFrame_reply (n : Nat) (s : State) : (s.fetchFrame n).reply = s.reply := rfl
@[simp] theorem fetchFrame_inp (n : Nat) (s : State) : (s.fetchFrame n).inp = s.inp := rfl
@[simp] theorem fetchFrame_prov (n : Nat) (s : State) : (s.fetchFrame n).prov = s.prov := rfl
@[simp] theorem fetchFrame_requests (n : Nat) (s : State) : (s.fetchFrame n).requests = s.requests := rfl
@[simp] theorem fetchFrame_began (n : Nat) (s : State) : (s.fetchFrame n).began = s.began := rfl
@[simp] theorem fetchFrame_turn (n : Nat) (s : State) : (s.fetchFrame n).turn = .link := rfl

@[simp] theorem fetchRequest_cfg (r : Request) (rs : List Request) (s : State) : (s.fetchRequest r rs).cfg = s.cfg := rfl
@[simp] theorem fetchRequest_session (r : Request) (rs : List Request) (s : State) : (s.fetchRequest r rs).session = s.session := rfl
@[simp] theorem fetchRequest_tap (r : Request) (rs : List Request) (s : State) : (s.fetchRequest r rs).tap = s.tap := rfl
@[simp] theorem fetchRequest_buf (r : Request) (rs : List Request) (s : State) : (s.fetchRequest r rs).buf = s.buf := rfl
@[simp] theorem fetchRequest_carryV (r : Request) (rs : List Request) (s : State) : (s.fetchRequest r rs).carryV = s.carryV := rfl
@[simp] theorem fetchRequest_carryB (r : Request) (rs : List Request) (s : State) : (s.fetchRequest r rs).carryB = s.carryB := rfl
@[simp] theorem fetchRequest_dir (r : Request) (rs : List Request) (s : State) : (s.fetchRequest r rs).dir = s.dir := rfl
@[simp] theorem fetchRequest_link (r : Request) (rs : List Request) (s : State) : (s.fetchRequest r rs).link = s.link := rfl
@[simp] theorem fetchRequest_events (r : Request) (rs : List Request) (s : State) : (s.fetchRequest r rs).events = s.events := rfl
@[simp] theorem fetchRequest_reply (r : Request) (rs : List Request) (s : State) : (s.fetchRequest r rs).reply = s.reply := rfl
@[simp] theorem fetchRequest_inp (r : Request) (rs : List Request) (s : State) : (s.fetchRequest r rs).inp = r.answers := rfl
@[simp] theorem fetchRequest_prov (r : Request) (rs : List Request) (s : State) : (s.fetchRequest r rs).prov = r.prov := rfl
@[simp] theorem fetchRequest_requests (r : Request) (rs : List Request) (s : State) : (s.fetchRequest r rs).requests = rs := rfl
@[simp] theorem fetchRequest_began (r : Request) (rs : List Request) (s : State) : (s.fetchRequest r rs).began = { calls := s.events.length, link := s.link } := rfl
@[simp] theorem fetchRequest_turn (r : Request) (rs : List Request) (s : State) : (s.fetchRequest r rs).turn = .block := rfl

@[simp] theorem withWire_cfg (bs : List Byte) (s : State) : (s.withWire bs).cfg = s.cfg := rfl
@[simp] theorem withWire_session (bs : List Byte) (s : State) : (s.withWire bs).session = s.session := rfl
@[simp] theorem withWire_tap (bs : List Byte) (s : State) : (s.withWire bs).tap = s.tap := rfl
@[simp] theorem withWire_buf (bs : List Byte) (s : State) : (s.withWire bs).buf = s.buf := rfl
@[simp] theorem withWire_carryV (bs : List Byte) (s : State) : (s.withWire bs).carryV = s.carryV := rfl
@[simp] theorem withWire_carryB (bs : List Byte) (s : State) : (s.withWire bs).carryB = s.carryB := rfl
@[simp] theorem withWire_dir (bs : List Byte) (s : State) : (s.withWire bs).dir = s.dir := rfl
@[simp] theorem withWire_link (bs : List Byte) (s : State) : (s.withWire bs).link = { s.link with wire := bs :: s.link.wire } := rfl
@[simp] theorem withWire_events (bs : List Byte) (s : State) : (s.withWire bs).events = s.events := rfl
@[simp] theorem withWire_reply (bs : List Byte) (s : State) : (s.withWire bs).reply = s.reply := rfl
@[simp] theorem withWire_inp (bs : List Byte) (s : State) : (s.withWire bs).inp = s.inp := rfl
@[simp] theorem withWire_prov (bs : List Byte) (s : State) : (s.withWire bs).prov = s.prov := rfl
@[simp] theorem withWire_requests (bs : List Byte) (s : State) : (s.withWire bs).requests = s.requests := rfl
@[simp] theorem withWire_began (bs : List Byte) (s : State) : (s.withWire bs).began = s.began := rfl
@[simp] theorem withWire_turn (bs : List Byte) (s : State) : (s.withWire bs).turn = s.turn := rfl

@[simp] theorem runOnLink_cfg (f : Frame) (s : State) : (runOnLink f s).cfg = s.cfg := rfl
@[simp] theorem runOnLink_session (f : Frame) (s : State) : (runOnLink f s).session = s.session := rfl
@[simp] theorem runOnLink_tap (f : Frame) (s : State) : (runOnLink f s).tap = s.tap := rfl
@[simp] theorem runOnLink_buf (f : Frame) (s : State) : (runOnLink f s).buf = s.buf := rfl
@[simp] theorem runOnLink_carryV (f : Frame) (s : State) : (runOnLink f s).carryV = s.carryV := rfl
@[simp] theorem runOnLink_carryB (f : Frame) (s : State) : (runOnLink f s).carryB = s.carryB := rfl
@[simp] theorem runOnLink_dir (f : Frame) (s : State) : (runOnLink f s).dir = s.dir := rfl
@[simp] theorem runOnLink_link (f : Frame) (s : State) : (runOnLink f s).link = s.link.runFrame s.cfg f := rfl
@[simp] theorem runOnLink_events (f : Frame) (s : State) : (runOnLink f s).events = s.events := rfl
@[simp] theorem runOnLink_reply (f : Frame) (s : State) : (runOnLink f s).reply = s.reply := rfl
@[simp] theorem runOnLink_inp (f : Frame) (s : State) : (runOnLink f s).inp = s.inp := rfl
@[simp] theorem runOnLink_prov (f : Frame) (s : State) : (runOnLink f s).prov = s.prov := rfl
@[simp] theorem runOnLink_requests (f : Frame) (s : State) : (runOnLink f s).requests = s.requests := rfl
@[simp] theorem runOnLink_began (f : Frame) (s : State) : (runOnLink f s).began = s.began := rfl
@[simp] theorem runOnLink_turn (f : Frame) (s : State) : (runOnLink f s).turn = s.turn := rfl

end Sys2Proof.Machine
end

