-- ==== Sys2Proof/Laws/Ops.lean ====
section
/-! SUPPORT. For each shared operation, what it can do, said once: its two ways to end and the state each leaves. -/

namespace Sys2Proof.Machine

/-! ## How an operation ends -/

@[simp] theorem bind_ok {α β : Type} (a : α) (s : State) (f : α → State → Res β) : (Res.ok a s).bind f = f a s := rfl

@[simp] theorem bind_err {α β : Type} (e : Err) (s : State) (f : α → State → Res β) :
    (Res.err e s : Res α).bind f = .err e s := rfl

/-- A sequence succeeds exactly when its first part does and the rest does from there. -/
theorem bind_eq_ok {α β : Type} {r : Res α} {f : α → State → Res β} {b : β} {t : State} :
    r.bind f = .ok b t ↔ ∃ a s, r = .ok a s ∧ f a s = .ok b t := by
  cases r <;> simp

theorem bind_eq_err {α β : Type} {r : Res α} {f : α → State → Res β} {e : Err} {t : State} :
    r.bind f = .err e t ↔ r = .err e t ∨ ∃ a s, r = .ok a s ∧ f a s = .err e t := by
  cases r <;> simp

@[simp] theorem check_nil {α : Type} (s : State) (k : State → Res α) : check [] s k = k s := rfl

@[simp] theorem check_none {α : Type} (es : List (Option Err)) (s : State) (k : State → Res α) :
    check (none :: es) s k = check es s k := rfl

@[simp] theorem check_some {α : Type} (e : Err) (es : List (Option Err)) (s : State) (k : State → Res α) :
    check (some e :: es) s k = .err e s := rfl

/-- Every check passed and the body ran, or the first failing check is the error and nothing changed (R255, R256). -/
theorem check_cases {α : Type} (es : List (Option Err)) (s : State) (k : State → Res α) :
    ((∀ e ∈ es, e = none) ∧ check es s k = k s) ∨ ∃ e, some e ∈ es ∧ check es s k = .err e s := by
  induction es with
  | nil => exact .inl ⟨by simp, rfl⟩
  | cons a es ih =>
    cases a with
    | some e => exact .inr ⟨e, by simp, rfl⟩
    | none =>
      obtain ⟨h, hk⟩ | ⟨e, he, hk⟩ := ih
      · exact .inl ⟨by simpa using h, hk⟩
      · exact .inr ⟨e, by simp [he], hk⟩

@[simp] theorem deliver_ok {α : Type} (v : α → Value) (a : α) (s : State) :
    deliver v (.ok a s) = .next { s with reply := some (.ok (v a)) } := rfl

@[simp] theorem deliver_err {α : Type} (v : α → Value) (e : Err) (s : State) :
    deliver v (.err e s : Res α) = .next { s with reply := some (.error e) } := rfl

/-- Every outcome is a next state, with the result or the error delivered (R258, R260). -/
theorem deliver_cases {α : Type} (v : α → Value) (r : Res α) :
    (∃ a s, r = .ok a s ∧ deliver v r = .next { s with reply := some (.ok (v a)) }) ∨
      ∃ e s, r = .err e s ∧ deliver v r = .next { s with reply := some (.error e) } := by
  cases r with
  | ok a s => exact .inl ⟨a, s, rfl, rfl⟩
  | err e s => exact .inr ⟨e, s, rfl, rfl⟩

/-! ## Checks -/

@[simp] theorem sessionErr_eq_none (s : State) : sessionErr s = none ↔ s.session = .opened := by
  simp [sessionErr]

theorem carryErr_eq_none (s : State) : carryErr s = none ↔ (s.cfg.carryPolicy = .enforce → s.carryV = false) := by
  simp [carryErr]

@[simp] theorem frameErr_eq_none (c : Config) (n : Nat) : frameErr c n = none ↔ n ≤ c.maxFrame := by
  simp [frameErr]

@[simp] theorem bitCountErr_eq_none (c : Config) (b : Bits) :
    bitCountErr c b = none ↔ 1 ≤ b.length ∧ b.length ≤ c.writeBitsMax := by
  rw [bitCountErr]
  split <;> simp <;> omega

@[simp] theorem byteAlignErr_eq_none (b : Bits) : byteAlignErr b = none ↔ b.length ≠ 0 ∧ b.length % 8 = 0 := by
  rw [byteAlignErr]
  split
  · next h => simpa [or_iff_not_imp_left] using h
  · next h => simpa using h

@[simp] theorem payloadErr_eq_none (c : Config) (n : Nat) : payloadErr c n = none ↔ 3 + n ≤ c.maxFrame := by
  simp [payloadErr]

@[simp] theorem tmsErr_eq_none (c : Config) (ev : Bits) :
    tmsErr c ev = none ↔ 1 ≤ ev.length ∧ ev.length ≤ c.tmsMaxEvents := by
  rw [tmsErr]
  split <;> simp <;> omega

@[simp] theorem readBitsErr_eq_none (c : Config) (n : Nat) : readBitsErr c n = none ↔ 1 ≤ n ∧ n ≤ c.readBitsMax := by
  rw [readBitsErr]
  split <;> simp <;> omega

@[simp] theorem readBytesErr_eq_none (c : Config) (n : Nat) :
    readBytesErr c n = none ↔ 1 ≤ n ∧ n ≤ c.readBytesMax := by
  rw [readBytesErr]
  split <;> simp <;> omega

@[simp] theorem readErr_eq_none (c : Config) (n : Nat) : readErr c n = none ↔ n / 8 ≤ c.readBytesMax := by
  rw [readErr]
  split <;> simp <;> omega

theorem writeErr_eq_none (c : Config) (b : Bits) :
    writeErr c b = none ↔ b.length ≠ 0 ∧ (0 < (b.length - 1) / 8 → 3 + (b.length - 1) / 8 ≤ c.maxFrame) := by
  rw [writeErr]
  split
  · simp [*]
  · split <;> simp [*]

@[simp] theorem lengthErr_eq_none (n : Int) : lengthErr n = none ↔ 0 ≤ n := by
  simp [lengthErr]

/-- A facility operation passes its checks under the same conditions in either order; only the cause reported differs
(log 26). -/
theorem facilityErrs_none (s : State) (args : List (Option Err)) :
    (∀ e ∈ facilityErrs s args, e = none) ↔ sessionErr s = none ∧ carryErr s = none ∧ ∀ e ∈ args, e = none := by
  unfold facilityErrs
  cases s.cfg.facilityOrder
  · simp
  · simp [or_imp, forall_and, and_comm]

/-! ## Transport calls -/

/-- What a failed call leaves of the block: the buffer and the carry gone, everything else as it was (R141, R257). -/
structure Failed (cause : TeCause) (s t : State) (e : Err) : Prop where
  err : e = .te cause
  buf : t.buf = []
  carryV : t.carryV = false
  carryB : t.carryB = false
  tap : t.tap = s.tap
  session : t.session = s.session
  dir : t.dir = s.dir
  cfg : t.cfg = s.cfg
  reply : t.reply = s.reply
  prov : t.prov = s.prov
  requests : t.requests = s.requests
  began : t.began = s.began
  turn : t.turn = s.turn
  events : s.events <+: t.events

theorem txWrite_cases (bs : List Byte) (s : State) :
    (s.callFails = false ∧
      txWrite bs s = .ok () { s.popAnswer.record (.write bs true) with link := s.link.deliver bs }) ∨
    ∃ e t, s.callFails = true ∧ txWrite bs s = .err e t ∧ Failed .writeFailed s t e := by
  rw [txWrite]
  split
  · next h => exact .inr ⟨_, _, h, rfl, by constructor <;> first | rfl | exact List.prefix_append _ _⟩
  · next h => exact .inl ⟨by simpa using h, rfl⟩

/-- A `TxRead(n)` takes exactly n bytes, or fails (20_memory.md R51). -/
theorem txRead_cases (n : Nat) (s : State) :
    (∃ bs, s.callFails = false ∧ bs = readAnswer n (s.link.settle s.cfg) s.answer ∧ bs.length = n ∧
      txRead n s = .ok bs
        ({ s with link := ((s.link.settle s.cfg).takeOut n).2 }.popAnswer.record (.read n (some bs)))) ∨
    (∃ e t, s.callFails = true ∧ txRead n s = .err e t ∧ Failed .readFailed s t e) ∨
    ∃ e t, s.callFails = false ∧ txRead n s = .err e t ∧ Failed .shortRead s t e := by
  simp only [txRead]
  split
  · next h => exact .inr (.inl ⟨_, _, h, rfl, by constructor <;> first | rfl | exact List.prefix_append _ _⟩)
  · next h =>
    have h : s.callFails = false := by simpa using h
    split
    · next hn => exact .inl ⟨_, h, rfl, hn, rfl⟩
    · exact .inr (.inr ⟨_, _, h, rfl, by constructor <;> first | rfl | exact List.prefix_append _ _⟩)

theorem txSetPins_cases (v : PinMask) (s : State) :
    (s.callFails = false ∧
      txSetPins v s = .ok () { s.popAnswer.record (.setPins v s.dir true) with
        link := s.link.changePins s.cfg v s.dir }) ∨
    ∃ e t, s.callFails = true ∧ txSetPins v s = .err e t ∧ Failed .pinsFailed s t e := by
  rw [txSetPins]
  split
  · next h => exact .inr ⟨_, _, h, rfl, by constructor <;> first | rfl | exact List.prefix_append _ _⟩
  · next h => exact .inl ⟨by simpa using h, rfl⟩

theorem txClose_cases (s : State) :
    (s.callFails = false ∧ txClose s = .ok () (s.popAnswer.record (.txClose true))) ∨
    ∃ e t, s.callFails = true ∧ txClose s = .err e t ∧ Failed .closeFailed s t e := by
  rw [txClose]
  split
  · next h => exact .inr ⟨_, _, h, rfl, by constructor <;> first | rfl | exact List.prefix_append _ _⟩
  · next h => exact .inl ⟨by simpa using h, rfl⟩

/-! ## The output buffer -/

@[simp] theorem memRead_all (s : State) : memRead 0 s.buf.length s = s.buf := by
  simp [memRead]

/-- The state after a flush that sent the whole buffer. -/
def flushed (s : State) : State :=
  { s.popAnswer.record (.write s.buf true) with link := s.link.deliver s.buf, buf := [] }

/-- A flush sends nothing, or the whole buffer in one call, or fails (R144). -/
theorem flushBuf_cases (s : State) :
    (s.buf = [] ∧ flushBuf s = .ok () s) ∨
    (s.buf ≠ [] ∧ s.callFails = false ∧ flushBuf s = .ok () (flushed s)) ∨
    ∃ e t, s.buf ≠ [] ∧ s.callFails = true ∧ flushBuf s = .err e t ∧ Failed .writeFailed s t e := by
  by_cases hb : s.buf = []
  · exact .inl ⟨hb, by simp [flushBuf, hb]⟩
  · have hl : 0 < s.buf.length := List.length_pos_iff.mpr hb
    obtain ⟨h, hw⟩ | ⟨e, t, h, hw, hf⟩ := txWrite_cases s.buf s
    · exact .inr (.inl ⟨hb, h, by simp [flushBuf, hl, hw, flushed]⟩)
    · exact .inr (.inr ⟨e, t, hb, h, by simp [flushBuf, hl, hw], hf⟩)

/-- `QUEUE(f)`: refused as too large; appended; or appended to a buffer flushed first; or that flush fails (R142). -/
theorem queueBytes_cases (f : List Byte) (s : State) :
    (s.cfg.maxFrame < f.length ∧ queueBytes f s = .err (.pie (.frameTooLarge f.length)) s) ∨
    (s.buf.length + f.length ≤ s.cfg.maxFrame ∧ queueBytes f s = .ok () (bufAppend f s)) ∨
    (f.length ≤ s.cfg.maxFrame ∧ s.cfg.maxFrame < s.buf.length + f.length ∧ s.callFails = false ∧
      queueBytes f s = .ok () (bufAppend f (flushed s))) ∨
    ∃ e t, s.cfg.maxFrame < s.buf.length + f.length ∧ s.callFails = true ∧
      queueBytes f s = .err e t ∧ Failed .writeFailed s t e := by
  by_cases hf : s.cfg.maxFrame < f.length
  · exact .inl ⟨hf, by simp [queueBytes, frameErr, hf]⟩
  · by_cases ho : s.cfg.maxFrame < s.buf.length + f.length
    · obtain ⟨hb, -⟩ | ⟨-, h, hq⟩ | ⟨e, t, -, h, hq, ht⟩ := flushBuf_cases s
      · simp [hb] at ho; omega
      · exact .inr (.inr (.inl ⟨by omega, ho, h, by simp [queueBytes, frameErr, hf, ho, hq]⟩))
      · exact .inr (.inr (.inr ⟨e, t, ho, h, by simp [queueBytes, frameErr, hf, ho, hq], ht⟩))
    · exact .inr (.inl ⟨by omega, by simp [queueBytes, frameErr, hf, ho]⟩)

/-- What fits is appended and nothing else happens. -/
theorem queueBytes_fits {f : List Byte} {s : State} (h : s.buf.length + f.length ≤ s.cfg.maxFrame) :
    queueBytes f s = .ok () (bufAppend f s) := by
  have : ¬ s.cfg.maxFrame < f.length := by omega
  have : ¬ s.cfg.maxFrame < s.buf.length + f.length := by omega
  simp [queueBytes, frameErr, *]

/-- The buffer never outgrows its bound, whatever the outcome of a `QUEUE` (R33). -/
theorem queueBytes_bufferWf {f : List Byte} {s t : State} (hs : s.buf.length ≤ s.cfg.maxFrame)
    (h : queueBytes f s = .ok () t ∨ ∃ e, queueBytes f s = .err e t) : t.buf.length ≤ t.cfg.maxFrame := by
  obtain ⟨-, hq⟩ | ⟨hl, hq⟩ | ⟨hl, -, -, hq⟩ | ⟨e, u, -, -, hq, hu⟩ := queueBytes_cases f s <;>
    rw [hq] at h <;> simp at h <;> subst h
  · exact hs
  · simpa using hl
  · simpa [flushed] using hl
  · simp [hu.buf]

/-- A flush leaves an empty buffer, whatever its outcome (R144, R141). -/
theorem flushBuf_empties {s t : State} (h : flushBuf s = .ok () t ∨ ∃ e, flushBuf s = .err e t) : t.buf = [] := by
  obtain ⟨hb, hq⟩ | ⟨-, -, hq⟩ | ⟨e, u, -, -, hq, hu⟩ := flushBuf_cases s <;>
    rw [hq] at h <;> simp at h <;> subst h
  · exact hb
  · rfl
  · exact hu.buf

end Sys2Proof.Machine
end

