-- ==== Sys2Proof/Laws/Inner.lean ====
section
/-! SUPPORT. What the inner forms can do: each either succeeds or meets a transport failure, and either way keeps the
fields no part of an operation writes, adds to the events, and keeps the buffer in its bound. -/

namespace Sys2Proof.Machine

/-! ## The block's memory -/

/-- The buffer is in bounds at power-on (10_state.md R30, R33). -/
theorem reset_bufferWf : bufferWf State.reset = true := by decide

/-- Appending what fits keeps the bound (20_memory.md R41). -/
theorem bufAppend_bufferWf {f : List Byte} {s : State} (h : s.buf.length + f.length ≤ s.cfg.maxFrame) :
    bufferWf (bufAppend f s) = true := by
  simpa [bufferWf] using h

/-- Reading at an offset after an append: the byte appended there (R41). -/
theorem memRead_append (f : List Byte) (s : State) : memRead s.buf.length f.length (bufAppend f s) = f := by
  simp [memRead]

/-- Reading before the end is not changed by an append (R41). -/
theorem memRead_append_before {f : List Byte} {s : State} {a n : Nat} (h : a + n ≤ s.buf.length) :
    memRead a n (bufAppend f s) = memRead a n s := by
  simp only [memRead, bufAppend]
  rw [List.drop_append_of_le_length (by omega), List.take_append_of_le_length (by simp; omega)]

/-! ## What every part keeps -/

/-- What no part of an operation after its session check writes, and what every part keeps true. -/
structure Kept (s t : State) : Prop where
  cfg : t.cfg = s.cfg
  session : t.session = s.session
  dir : t.dir = s.dir
  reply : t.reply = s.reply
  prov : t.prov = s.prov
  requests : t.requests = s.requests
  began : t.began = s.began
  turn : t.turn = s.turn
  events : s.events <+: t.events
  buf : s.buf.length ≤ s.cfg.maxFrame → t.buf.length ≤ t.cfg.maxFrame

theorem Kept.refl (s : State) : Kept s s := ⟨rfl, rfl, rfl, rfl, rfl, rfl, rfl, rfl, List.prefix_rfl, id⟩

theorem Kept.trans {s t u : State} (h : Kept s t) (k : Kept t u) : Kept s u :=
  ⟨k.cfg.trans h.cfg, k.session.trans h.session, k.dir.trans h.dir, k.reply.trans h.reply, k.prov.trans h.prov,
    k.requests.trans h.requests, k.began.trans h.began, k.turn.trans h.turn, h.events.trans k.events, fun b => k.buf (h.buf b)⟩

/-- A transport failure in the middle of an operation (41_framing.md R141, 60_exceptions.md R257). -/
structure Broken (s t : State) (e : Err) : Prop where
  kept : Kept s t
  err : ∃ cause, cause ≠ .openFailed ∧ e = .te cause
  buf : t.buf = []
  carryV : t.carryV = false
  carryB : t.carryB = false

theorem Failed.broken {cause : TeCause} {s t : State} {e : Err} (h : Failed cause s t e) (hc : cause ≠ .openFailed) :
    Broken s t e :=
  ⟨⟨h.cfg, h.session, h.dir, h.reply, h.prov, h.requests, h.began, h.turn, h.events, fun _ => by simp [h.buf]⟩,
    ⟨cause, hc, h.err⟩, h.buf, h.carryV, h.carryB⟩

/-- A part that makes no check of its own any more: it succeeds, or a transport call fails. -/
structure Runs {α : Type} (s : State) (r : Res α) : Prop where
  ok : ∀ a t, r = .ok a t → Kept s t
  err : ∀ e t, r = .err e t → Broken s t e

theorem Runs.pure {α : Type} {s t : State} (a : α) (h : Kept s t) : Runs s (.ok a t) :=
  ⟨fun _ _ h' => by cases h'; exact h, fun _ _ h' => by cases h'⟩

theorem Runs.fail {α : Type} {s t : State} {e : Err} (h : Broken s t e) : Runs s (.err e t : Res α) :=
  by
  constructor
  · intro _ _ h'
    cases h'
  · intro _ _ h'
    cases h'
    exact h

theorem Runs.bind {α β : Type} {s : State} {r : Res α} {f : α → State → Res β} (h : Runs s r)
    (k : ∀ a t, r = .ok a t → Runs t (f a t)) : Runs s (r.bind f) := by
  cases r with
  | ok a t =>
    have ht := h.ok a t rfl
    have hk := k a t rfl
    refine ⟨fun b u hu => ht.trans (hk.ok b u hu), fun e u hu => ?_⟩
    obtain ⟨ku, he, hb, hv, hc⟩ := hk.err e u hu
    exact ⟨ht.trans ku, he, hb, hv, hc⟩
  | err e t => exact .fail (h.err e t rfl)

/-! ## Each part -/

theorem flushed_kept (s : State) : Kept s (flushed s) :=
  ⟨rfl, rfl, rfl, rfl, rfl, rfl, rfl, rfl, List.prefix_append _ _, fun _ => by simp [flushed]⟩

theorem flushBuf_runs (s : State) : Runs s (flushBuf s) := by
  obtain ⟨-, h⟩ | ⟨-, -, h⟩ | ⟨e, t, -, -, h, hf⟩ := flushBuf_cases s <;> rw [h]
  · exact .pure _ (.refl s)
  · exact .pure _ (flushed_kept s)
  · exact .fail (hf.broken (by decide))

theorem queueBytes_runs {f : List Byte} {s : State} (h : f.length ≤ s.cfg.maxFrame) : Runs s (queueBytes f s) := by
  obtain ⟨hl, -⟩ | ⟨hl, hq⟩ | ⟨hl, -, -, hq⟩ | ⟨e, t, -, -, hq, hf⟩ := queueBytes_cases f s
  · omega
  · rw [hq]
    exact .pure _ ⟨rfl, rfl, rfl, rfl, rfl, rfl, rfl, rfl, List.prefix_rfl, fun _ => by simpa using hl⟩
  · rw [hq]
    exact .pure _ ((flushed_kept s).trans
      ⟨rfl, rfl, rfl, rfl, rfl, rfl, rfl, rfl, List.prefix_rfl, fun _ => by simpa [flushed] using hl⟩)
  · rw [hq]
    exact .fail (hf.broken (by decide))

theorem emit_runs {f : Frame} {s : State} (h : f.size ≤ s.cfg.maxFrame) : Runs s (emit f s) :=
  queueBytes_runs (by rwa [encodeFrame_length])

theorem clearCarry_kept (s : State) : Kept s (clearCarry s) :=
  ⟨rfl, rfl, rfl, rfl, rfl, rfl, rfl, rfl, List.prefix_rfl, id⟩

theorem setCarry_kept (b : Bool) (s : State) : Kept s (setCarry b s) :=
  ⟨rfl, rfl, rfl, rfl, rfl, rfl, rfl, rfl, List.prefix_rfl, id⟩

theorem tap_kept (t : Tap) (s : State) : Kept s { s with tap := t } :=
  ⟨rfl, rfl, rfl, rfl, rfl, rfl, rfl, rfl, List.prefix_rfl, id⟩

/-- A frame of 1 to `TMS_MAX_EVENTS` events: the carry is clear afterwards, either way (41_framing.md R154). -/
theorem writeTms_runs {ev : Bits} {s : State} (h : 1 ≤ ev.length ∧ ev.length ≤ s.cfg.tmsMaxEvents)
    (hc : 3 ≤ s.cfg.maxFrame) : Runs s (writeTms ev s) := by
  rw [writeTms, (tmsErr_eq_none _ _).mpr h, check_none, check_nil]
  exact (emit_runs (f := .wtms ev (tdiSlot s)) hc).bind fun _ t _ => .pure _ (clearCarry_kept t)

theorem writeTms_carry {ev : Bits} {s t : State} (h : 1 ≤ ev.length ∧ ev.length ≤ s.cfg.tmsMaxEvents)
    (ht : writeTms ev s = .ok () t) : t.carryV = false ∧ t.carryB = false := by
  rw [writeTms, (tmsErr_eq_none _ _).mpr h, check_none, check_nil, bind_eq_ok] at ht
  obtain ⟨_, u, -, hu⟩ := ht
  cases hu
  exact ⟨rfl, rfl⟩

theorem txRead_runs (n : Nat) (s : State) : Runs s (txRead n s) := by
  obtain ⟨bs, -, -, -, h⟩ | ⟨e, t, -, h, hf⟩ | ⟨e, t, -, h, hf⟩ := txRead_cases n s <;> rw [h]
  · exact .pure _ ⟨rfl, rfl, rfl, rfl, rfl, rfl, rfl, rfl, List.prefix_append _ _, id⟩
  · exact .fail (hf.broken (by decide))
  · exact .fail (hf.broken (by decide))

theorem exchange_runs {f : Frame} (n : Nat) {s : State} (h : f.size ≤ s.cfg.maxFrame) : Runs s (exchange f n s) :=
  (emit_runs h).bind fun _ t _ => (flushBuf_runs t).bind fun _ u _ => txRead_runs n u

theorem txSetPins_runs (v : PinMask) (s : State) : Runs s (txSetPins v s) := by
  obtain ⟨-, h⟩ | ⟨e, t, -, h, hf⟩ := txSetPins_cases v s <;> rw [h]
  · exact .pure _ ⟨rfl, rfl, rfl, rfl, rfl, rfl, rfl, rfl, List.prefix_append _ _, id⟩
  · exact .fail (hf.broken (by decide))

theorem readBits_runs (n : Nat) {s : State} (h : 2 ≤ s.cfg.maxFrame) : Runs s (readBits n s) :=
  (exchange_runs (f := .rbits n) 1 h).bind fun _ t _ => .pure _ (.refl t)

theorem readBytes_runs (n : Nat) {s : State} (h : 3 ≤ s.cfg.maxFrame) : Runs s (readBytes n s) :=
  (exchange_runs (f := .rbytes n) n h).bind fun _ t _ => .pure _ (.refl t)

/-- `READ(n)` after its checks (41_framing.md R161). -/
theorem readSeq_runs {n : Nat} {s : State} (hr : readErr s.cfg n = none) (hc : carryErr s = none)
    (h : 3 ≤ s.cfg.maxFrame) : Runs s (readSeq n s) := by
  rw [readSeq, hr, hc]
  simp only [check_none, check_nil]
  have part : ∀ (k : Nat) (op : Nat → State → Res Bits) (t : State), Runs t (op k t) → Runs t (readIf k op t) := by
    intro k op t hop
    rw [readIf]
    split
    · exact hop
    · exact .pure _ (.refl t)
  have first := part (n / 8) readBytes s (readBytes_runs _ h)
  refine first.bind fun _ t ht => ?_
  have hm : 3 ≤ t.cfg.maxFrame := by rw [(first.ok _ t ht).cfg]; exact h
  exact (part _ _ t (readBits_runs _ (by omega))).bind fun _ u _ => .pure _ (.refl u)

/-! ## A route -/

theorem chunks_spec (fuel n : Nat) (ev : Bits) (hn : 1 ≤ n) (p : Bits) (h : p ∈ chunks fuel n ev) :
    1 ≤ p.length ∧ p.length ≤ n := by
  induction fuel generalizing ev with
  | zero => simp [chunks] at h
  | succ fuel ih =>
    rw [chunks] at h
    split at h
    · simp at h
    · next hne =>
      rcases List.mem_cons.mp h with rfl | h
      · have := List.length_pos_iff.mpr hne
        simp only [List.length_take]
        omega
      · exact ih _ h

/-- The pieces of a sequence are the sequence, in order (42_engine.md R182). -/
theorem chunks_flatten (fuel n : Nat) (ev : Bits) (hn : 1 ≤ n) (h : ev.length ≤ fuel) :
    (chunks fuel n ev).flatten = ev := by
  induction fuel generalizing ev with
  | zero => simp [chunks, List.length_eq_zero_iff.mp (Nat.le_zero.mp h)]
  | succ fuel ih =>
    rw [chunks]
    split
    · next he => simp [he]
    · rw [List.flatten_cons, ih _ (by simp; omega), List.take_append_drop]

theorem sendTms_runs (ps : List Bits) (s : State) (h : ∀ p ∈ ps, 1 ≤ p.length ∧ p.length ≤ s.cfg.tmsMaxEvents)
    (hc : 3 ≤ s.cfg.maxFrame) : Runs s (sendTms ps s) := by
  induction ps generalizing s with
  | nil => exact .pure _ (.refl s)
  | cons p ps ih =>
    have hp := writeTms_runs (h p (by simp)) hc
    refine hp.bind fun _ t ht => ?_
    have hcfg := (hp.ok _ t ht).cfg
    exact ih t (by rw [hcfg]; exact fun q hq => h q (by simp [hq])) (by rw [hcfg]; exact hc)

/-- `CHANGE_STATE(t)` succeeds with the pointer at the target, or an overflow flush fails (42_engine.md R182). -/
theorem changeState_runs (t : Tap) {s : State} (hn : 1 ≤ s.cfg.tmsMaxEvents) (hc : 3 ≤ s.cfg.maxFrame) :
    Runs s (changeState t s) := by
  obtain ⟨ev, hr, -⟩ := route_ok s.tap t
  rw [changeState, hr]
  exact (sendTms_runs _ s (fun p hp => chunks_spec _ _ _ hn p hp) hc).bind fun _ u _ => .pure _ (tap_kept _ u)

theorem sendTms_tap (ps : List Bits) (s t : State) (h : sendTms ps s = .ok () t) : t.tap = s.tap := by
  induction ps generalizing s with
  | nil => cases h; rfl
  | cons p ps ih =>
    rw [sendTms, bind_eq_ok] at h
    obtain ⟨_, u, hu, ht⟩ := h
    rw [ih u ht]
    obtain ⟨-, hk⟩ | ⟨e, -, hk⟩ := check_cases [tmsErr s.cfg p] s fun s =>
      (emit (.wtms p (tdiSlot s)) s).bind fun _ s => .ok () (clearCarry s)
    · rw [writeTms, hk, bind_eq_ok] at hu
      obtain ⟨_, v, hv, hu⟩ := hu
      cases hu
      obtain ⟨-, hq⟩ | ⟨-, hq⟩ | ⟨-, -, -, hq⟩ | ⟨e, w, -, -, hq, -⟩ :=
        queueBytes_cases (encodeFrame s.cfg (.wtms p (tdiSlot s))) s <;> rw [emit, hq] at hv <;> simp at hv <;>
        subst hv <;> rfl
    · rw [writeTms, hk] at hu
      simp at hu

theorem changeState_tap {t : Tap} {s u : State} (h : changeState t s = .ok () u) : u.tap = t := by
  obtain ⟨ev, hr, ha, -⟩ := route_ok s.tap t
  rw [changeState, hr, bind_eq_ok] at h
  obtain ⟨_, v, hv, hu⟩ := h
  cases hu
  simp [sendTms_tap _ _ _ hv, ha]

end Sys2Proof.Machine
end

