-- ==== Sys2Proof/Laws/Link.lean ====
section
/-! SUPPORT. The link: what a clock, a frame and the wire do, each said once. -/

namespace Sys2Proof.Machine

/-! ## Sets of states -/

theorem mem_imageOf (poss : List Tap) (m : Bool) (t : Tap) : t ∈ imageOf poss m ↔ ∃ u ∈ poss, nxt u m = t := by
  simp [imageOf, mem_allTaps]

/-- A set of states in its one form: in the order of the codes, no repeats (R220). -/
def canonical (p : List Tap) : Bool := p == allTaps.filter (fun t => p.contains t)

theorem canonical_filter (f : Tap → Bool) : canonical (allTaps.filter f) = true := by
  simp only [canonical, beq_iff_eq]
  apply List.filter_congr
  intro t ht
  cases h : f t <;> simp [ht, h]

theorem canonical_allTaps : canonical allTaps = true := by decide

theorem canonical_single (t : Tap) : canonical [t] = true := by cases t <;> decide

/-! ## One clock -/

@[simp] theorem draw_fields (l : Link) : l.draw.2.poss = l.poss ∧ l.draw.2.tms = l.tms ∧ l.draw.2.out = l.out ∧
    l.draw.2.wire = l.wire := ⟨rfl, rfl, rfl, rfl⟩

@[simp] theorem anyRegs_fields (c : Config) (l : Link) : (l.anyRegs c).poss = l.poss ∧ (l.anyRegs c).tms = l.tms ∧
    (l.anyRegs c).out = l.out ∧ (l.anyRegs c).wire = l.wire := ⟨rfl, rfl, rfl, rfl⟩

@[simp] theorem freeBits_length (n k : Nat) : (freeBits n k).length = k := by simp [freeBits]

theorem enter_fields (c : Config) (s : Tap) (l : Link) : (l.enter c s).tms = l.tms ∧ (l.enter c s).out = l.out ∧
    (l.enter c s).wire = l.wire ∧ (l.enter c s).free = l.free := by
  unfold Link.enter
  repeat' split
  all_goals exact ⟨rfl, rfl, rfl, rfl⟩

theorem shift_fields (s : Tap) (d : Bool) (l : Link) : (l.shift s d).2.tms = l.tms ∧ (l.shift s d).2.out = l.out ∧
    (l.shift s d).2.wire = l.wire := by
  unfold Link.shift
  repeat' split
  all_goals exact ⟨rfl, rfl, rfl⟩

/-- A clock moves every state the remote TAP may be in along the edge of its TMS value, and leaves the line, the
responses and the wire alone (R224). -/
theorem clock_spec (c : Config) (m d : Bool) (l : Link) :
    (∀ t, t ∈ (l.clock c m d).2.poss ↔ ∃ u ∈ l.poss, nxt u m = t) ∧ (l.clock c m d).2.tms = l.tms ∧
      (l.clock c m d).2.out = l.out ∧ (l.clock c m d).2.wire = l.wire := by
  unfold Link.clock
  split
  · next s h =>
    obtain ⟨ht, ho, hw⟩ := shift_fields s d l
    obtain ⟨et, eo, ew, -⟩ := enter_fields c (nxt s m) (l.shift s d).2
    refine ⟨fun t => ?_, et.trans ht, eo.trans ho, ew.trans hw⟩
    simp [h, eq_comm]
  · exact ⟨fun t => mem_imageOf _ _ _, rfl, rfl, rfl⟩

/-- A clock at a known state: the shift of the state left, then the actions of the state entered (R224, R232, R234). -/
theorem clock_known {c : Config} {m d : Bool} {l : Link} {s : Tap} (h : l.poss = [s]) :
    l.clock c m d =
      ((l.shift s d).1, { (l.shift s d).2.enter c (nxt s m) with poss := [nxt s m] }) := by
  simp [Link.clock, h]

/-- In Shift-DR bit 0 goes out and the TDI bit comes in at the top (R224). -/
theorem shift_shdr {d b : Bool} {r : Bits} {l : Link} (h : l.drSh = b :: r) :
    l.shift .shdr d = (b, { l with drSh := r ++ [d] }) := by
  simp [Link.shift, h, shiftReg]

theorem shift_shir {d b : Bool} {r : Bits} {l : Link} (h : l.irSh = b :: r) :
    l.shift .shir d = (b, { l with irSh := r ++ [d] }) := by
  simp [Link.shift, h, shiftReg]

/-! ## The clocks of a frame -/

/-- A clock that holds the line: as `clock_spec` with the line known, anywhere with the line unknown (R222, R224). -/
theorem dataClock_spec (c : Config) (d : Bool) (l : Link) :
    (l.tms = none → (l.dataClock c d).2.poss = allTaps) ∧
      (∀ m, l.tms = some m → l.dataClock c d = l.clock c m d) ∧ (l.dataClock c d).2.tms = l.tms ∧
      (l.dataClock c d).2.out = l.out ∧ (l.dataClock c d).2.wire = l.wire := by
  unfold Link.dataClock
  split
  · next m h =>
    obtain ⟨-, ht, ho, hw⟩ := clock_spec c m d l
    exact ⟨by simp [h], by simp [h], ht, ho, hw⟩
  · next h => exact ⟨fun _ => rfl, by simp [h], rfl, rfl, rfl⟩

@[simp] theorem dataClocks_nil (c : Config) (l : Link) : l.dataClocks c [] = ([], l) := rfl

theorem dataClocks_cons (c : Config) (d : Bool) (ds : Bits) (l : Link) :
    l.dataClocks c (d :: ds) =
      ((l.dataClock c d).1 :: ((l.dataClock c d).2.dataClocks c ds).1, ((l.dataClock c d).2.dataClocks c ds).2) := rfl

/-- Data clocks answer one TDO bit each and leave the line, the responses and the wire alone (R222). -/
theorem dataClocks_spec (c : Config) (b : Bits) (l : Link) :
    (l.dataClocks c b).1.length = b.length ∧ (l.dataClocks c b).2.tms = l.tms ∧ (l.dataClocks c b).2.out = l.out ∧
      (l.dataClocks c b).2.wire = l.wire := by
  induction b generalizing l with
  | nil => simp
  | cons d ds ih =>
    obtain ⟨-, -, ht, ho, hw⟩ := dataClock_spec c d l
    obtain ⟨il, it, io, iw⟩ := ih (l.dataClock c d).2
    simp [dataClocks_cons, *]

/-- Data clocks with the line known move the remote TAP once for each bit (R222, R224). -/
theorem dataClocks_poss (c : Config) (b : Bits) (l : Link) (m : Bool) (h : l.tms = some m) (t : Tap) :
    t ∈ (l.dataClocks c b).2.poss ↔ ∃ u ∈ l.poss, applyEvents u (List.replicate b.length m) = t := by
  induction b generalizing l with
  | nil => simp
  | cons d ds ih =>
    obtain ⟨-, hk, ht, -⟩ := dataClock_spec c d l
    obtain ⟨hp, -⟩ := clock_spec c m d l
    have hm : (l.dataClock c d).2.tms = some m := ht.trans h
    rw [dataClocks_cons]
    simp only [ih _ hm, List.length_cons, List.replicate_succ, applyEvents_cons]
    simp only [hk m h, hp]
    constructor
    · rintro ⟨u, ⟨v, hv, rfl⟩, hu⟩
      exact ⟨v, hv, hu⟩
    · rintro ⟨v, hv, hu⟩
      exact ⟨_, ⟨v, hv, rfl⟩, hu⟩

/-- The clocks of a TMS frame move the remote TAP by its events (R223, R224). -/
theorem tmsClocks_spec (c : Config) (d : Bool) (ev : Bits) (l : Link) :
    (∀ t, t ∈ (l.tmsClocks c d ev).poss ↔ ∃ u ∈ l.poss, applyEvents u ev = t) ∧ (l.tmsClocks c d ev).tms = l.tms ∧
      (l.tmsClocks c d ev).out = l.out ∧ (l.tmsClocks c d ev).wire = l.wire := by
  induction ev generalizing l with
  | nil => simp [Link.tmsClocks]
  | cons m ms ih =>
    obtain ⟨hp, ht, ho, hw⟩ := clock_spec c m d l
    obtain ⟨ip, it, io, iw⟩ := ih (l.clock c m d).2
    refine ⟨fun t => ?_, it.trans ht, io.trans ho, iw.trans hw⟩
    simp only [Link.tmsClocks, ip, hp, applyEvents_cons]
    constructor
    · rintro ⟨u, ⟨v, hv, rfl⟩, hu⟩
      exact ⟨v, hv, hu⟩
    · rintro ⟨v, hv, hu⟩
      exact ⟨_, ⟨v, hv, rfl⟩, hu⟩

/-- Making a response byte may draw free values and does nothing else (R225). -/
theorem bitsResponse_fields (c : Config) (v : Bits) (l : Link) :
    (l.bitsResponse c v).2.poss = l.poss ∧ (l.bitsResponse c v).2.tms = l.tms ∧
      (l.bitsResponse c v).2.out = l.out ∧ (l.bitsResponse c v).2.wire = l.wire := by
  unfold Link.bitsResponse
  split <;> exact ⟨rfl, rfl, rfl, rfl⟩

/-- The block reads back the bits of a response byte, whatever the other bits are (30_encoding.md R84). -/
theorem justified_bitsResponse (c : Config) (v : Bits) (l : Link) (h : v.length ≤ 8) :
    justified c v.length (l.bitsResponse c v).1 = v := by
  unfold Link.bitsResponse justified
  cases c.readBitsJustify <;> apply List.ext_getElem (by simp) <;> intro i h₁ h₂
  · rw [List.getElem_map, List.getElem_range, pack8_getLsbD _ _ (by omega)]
    simp [List.getD_eq_getElem?_getD, h₂]
  · simp only [unpack8, List.getElem_map, List.getElem_range]
    rw [pack8_getLsbD _ _ (by omega)]
    simp [List.getD_eq_getElem?_getD, List.getElem?_append, h₂]

/-- A frame leaves the wire alone and only adds response bytes (R221, R227). -/
theorem runFrame_spec (c : Config) (f : Frame) (l : Link) :
    (l.runFrame c f).wire = l.wire ∧ l.out <+: (l.runFrame c f).out := by
  cases f with
  | wbits b => obtain ⟨-, -, ho, hw⟩ := dataClocks_spec c b l; exact ⟨hw, by simp [Link.runFrame, Link.runWbits, ho]⟩
  | wbytes b => obtain ⟨-, -, ho, hw⟩ := dataClocks_spec c b l; exact ⟨hw, by simp [Link.runFrame, Link.runWbytes, ho]⟩
  | wtms ev d => obtain ⟨-, -, ho, hw⟩ := tmsClocks_spec c d ev l; exact ⟨hw, by simp [Link.runFrame, Link.runWtms, ho]⟩
  | rbits n =>
    obtain ⟨-, -, ho, hw⟩ := dataClocks_spec c (List.replicate n c.readTdi) l
    obtain ⟨-, -, bo, bw⟩ := bitsResponse_fields c (l.dataClocks c (List.replicate n c.readTdi)).1
      (l.dataClocks c (List.replicate n c.readTdi)).2
    exact ⟨bw.trans hw, by simp [Link.runFrame, Link.runRbits, Link.respond, bo, ho]⟩
  | rbytes n =>
    obtain ⟨-, -, ho, hw⟩ := dataClocks_spec c (List.replicate (8 * n) c.readTdi) l
    exact ⟨hw, by simp [Link.runFrame, Link.runRbytes, Link.respond, ho]⟩
  | rwbytes b =>
    obtain ⟨-, -, ho, hw⟩ := dataClocks_spec c b l
    exact ⟨hw, by simp [Link.runFrame, Link.runRwbytes, Link.respond, ho]⟩

/-! ## What no frame writes: the mark of a failed call (log 27) -/

@[simp] theorem draw_torn (l : Link) : l.draw.2.torn = l.torn := rfl
@[simp] theorem anyRegs_torn (c : Config) (l : Link) : (l.anyRegs c).torn = l.torn := rfl

@[simp] theorem shift_torn (s : Tap) (d : Bool) (l : Link) : (l.shift s d).2.torn = l.torn := by
  unfold Link.shift
  repeat' split
  all_goals rfl

@[simp] theorem enter_torn (c : Config) (s : Tap) (l : Link) : (l.enter c s).torn = l.torn := by
  unfold Link.enter
  repeat' split
  all_goals rfl

@[simp] theorem clock_torn (c : Config) (m d : Bool) (l : Link) : (l.clock c m d).2.torn = l.torn := by
  unfold Link.clock
  split <;> simp

@[simp] theorem dataClock_torn (c : Config) (d : Bool) (l : Link) : (l.dataClock c d).2.torn = l.torn := by
  unfold Link.dataClock
  split <;> simp

@[simp] theorem dataClocks_torn (c : Config) (b : Bits) (l : Link) : (l.dataClocks c b).2.torn = l.torn := by
  induction b generalizing l with
  | nil => rfl
  | cons d ds ih => simp [dataClocks_cons, ih]

@[simp] theorem tmsClocks_torn (c : Config) (d : Bool) (ev : Bits) (l : Link) : (l.tmsClocks c d ev).torn = l.torn := by
  induction ev generalizing l with
  | nil => rfl
  | cons m ms ih => simp [Link.tmsClocks, ih]

@[simp] theorem bitsResponse_torn (c : Config) (v : Bits) (l : Link) : (l.bitsResponse c v).2.torn = l.torn := by
  unfold Link.bitsResponse
  split <;> rfl

@[simp] theorem runFrame_torn (c : Config) (f : Frame) (l : Link) : (l.runFrame c f).torn = l.torn := by
  cases f <;> simp [Link.runFrame, Link.runWbits, Link.runWbytes, Link.runWtms, Link.runRbits, Link.runRbytes,
    Link.runRwbytes, Link.respond]

/-! ## The wire -/

/-- Bytes come off the front of the stream, whatever the bounds of the calls (R221). -/
theorem flatten_dropBytes (n : Nat) (w : List (List Byte)) : (dropBytes n w).flatten = w.flatten.drop n := by
  induction w generalizing n with
  | nil => simp [dropBytes]
  | cons x xs ih =>
    simp only [dropBytes]
    split
    · next h =>
      have : n - x.length = 0 := by omega
      simp [List.drop_append, this]
    · next h =>
      have : x.drop n = [] := List.drop_eq_nil_of_le (by omega)
      simp [ih, List.drop_append, this]

theorem keep_stream {l : Link} {k : Nat} (h : k ≤ l.stream.length) :
    (l.keep (l.stream.length - k)).stream = l.stream.drop k := by
  simp only [Link.keep, Link.stream, flatten_dropBytes] at *
  congr 1
  omega

@[simp] theorem deliver_stream (bs : List Byte) (l : Link) : (l.deliver bs).stream = l.stream ++ bs := by
  simp [Link.deliver, Link.stream]

theorem takeOut_spec (n : Nat) (l : Link) : (l.takeOut n).1 ++ (l.takeOut n).2.out = l.out := by
  simp [Link.takeOut]

/-- An empty wire has nothing to interpret (R227). -/
theorem settle_nothing {c : Config} {l : Link} (h : l.stream = []) : l.settle c = l := by
  simp [Link.settle, h, Link.settleN]

/-- A byte that is no opcode leaves the remote TAP anywhere and takes the rest of its `TxWrite`; the line and the responses
stay (R228; log 28). -/
@[simp] theorem discard_fields (c : Config) (l : Link) : (l.discard c).poss = allTaps ∧ (l.discard c).tms = l.tms ∧
    (l.discard c).out = l.out ∧ (l.discard c).wire = dropChunk l.wire ∧ (l.discard c).torn = l.torn :=
  ⟨rfl, rfl, rfl, rfl, rfl⟩

/-- Discarding a `TxWrite` takes at least one byte off a wire that has one (R228). -/
theorem dropChunk_shorter {w : List (List Byte)} (h : w.flatten ≠ []) :
    (dropChunk w).flatten.length < w.flatten.length := by
  induction w with
  | nil => simp at h
  | cons x xs ih =>
    cases x with
    | nil => simpa [dropChunk] using ih (by simpa using h)
    | cons b bs => simp [dropChunk]

/-- Interpreting the wire leaves less than a frame on it (R221, R227). -/
theorem settleN_truncated (c : Config) (n : Nat) (l : Link) (h : l.stream.length ≤ n) :
    decodeFrame c (l.settleN c n).stream = .error .truncated := by
  induction n generalizing l with
  | zero => rw [Link.settleN, List.length_eq_zero_iff.mp (Nat.le_zero.mp h)]; rfl
  | succ n ih =>
    have drop : ∀ e, decodeFrame c l.stream = .error e → e ≠ .truncated → (dropChunk l.wire).flatten.length ≤ n := by
      intro e he hn
      have hne : l.wire.flatten ≠ [] := by
        intro hnil
        rw [Link.stream, hnil] at he
        cases he
        exact hn rfl
      have := dropChunk_shorter hne
      simp only [Link.stream] at h
      omega
    rw [Link.settleN]
    split
    · next f rest hd =>
      obtain ⟨k, hr, hk⟩ := decodeFrame_rest hd
      have hlt : rest.length < l.stream.length := by rw [hr, List.length_drop]; omega
      apply ih
      obtain ⟨hw, -⟩ := runFrame_spec c f (l.keep rest.length)
      have hk := keep_stream (l := l) (k := l.stream.length - rest.length) (by omega)
      rw [Nat.sub_sub_self hlt.le] at hk
      simp only [Link.stream] at hk hlt h ⊢
      rw [hw, hk, List.length_drop]
      omega
    · next hd => exact hd
    · next hd => exact ih _ (drop _ hd (by decide))
    · next e hne hnu hd => exact ih _ (drop e hd hne)

theorem settle_truncated (c : Config) (l : Link) : decodeFrame c (l.settle c).stream = .error .truncated :=
  settleN_truncated c _ l le_rfl

/-- Interpreting the wire keeps the mark of a failed call (log 27). -/
@[simp] theorem settleN_torn (c : Config) (n : Nat) (l : Link) : (l.settleN c n).torn = l.torn := by
  induction n generalizing l with
  | zero => rfl
  | succ n ih =>
    rw [Link.settleN]
    split <;> simp [ih, Link.keep, Link.discard, Link.garble]

@[simp] theorem settle_torn (c : Config) (l : Link) : (l.settle c).torn = l.torn := settleN_torn c _ l

/-! ## Pin changes and transport errors -/

@[simp] theorem setPins_fields (c : Config) (v d : PinMask) (l : Link) : (l.setPins c v d).out = l.out ∧
    (l.setPins c v d).wire = l.wire ∧ (l.setPins c v d).torn = l.torn := ⟨rfl, rfl, rfl⟩

/-- A pin change keeps the responses of the frames before it; the wire it leaves is empty, or what the interpreted bytes
left, where no call has failed since the last one (R229, R54; log 27). -/
theorem changePins_spec (c : Config) (v d : PinMask) (l : Link) :
    (l.changePins c v d).out = (l.settle c).out ∧ (l.changePins c v d).torn = false ∧
      (l.torn = true → (l.changePins c v d).wire = []) ∧
      (l.torn = false → (l.changePins c v d).wire = (l.settle c).wire) := by
  unfold Link.changePins Link.cut
  split <;> simp_all

/-- With less than a frame on the wire there is nothing to interpret (R227). -/
theorem settle_truncated_eq {c : Config} {l : Link} (h : decodeFrame c l.stream = .error .truncated) :
    l.settle c = l := by
  unfold Link.settle
  cases l.stream.length with
  | zero => rfl
  | succ n => simp [Link.settleN, h]

@[simp] theorem settle_settle (c : Config) (l : Link) : (l.settle c).settle c = l.settle c :=
  settle_truncated_eq (settle_truncated c l)

/-- A call that moves no bytes leaves the link as it was, or is a pin change (R50; log 9). -/
theorem replay_still {c : Config} {n : Nat} {l : Link} {e : TxEvent} (h : movesBytes e = false) :
    l.replay c n e = l ∨ ∃ v d, l.replay c n e = l.changePins c v d := by
  cases e with
  | txOpen _ _ _ _ _ f => cases f with
    | none => exact .inl rfl
    | some _ => simp [movesBytes] at h
  | setPins v d done => cases done with
    | false => exact .inl rfl
    | true => exact .inr ⟨v, d, rfl⟩
  | write _ _ => simp [movesBytes] at h
  | read _ _ => simp [movesBytes] at h
  | txClose _ => exact .inl rfl
  | delay _ => exact .inl rfl

/-- After a transport error nothing is known of the remote TAP; the responses and the wire stay (R141, I8). -/
theorem lose_spec (c : Config) (l : Link) : (l.lose c).poss = allTaps ∧ (l.lose c).tms = none ∧
    (l.lose c).torn = true ∧ (l.lose c).out = l.out ∧ (l.lose c).wire = l.wire := ⟨rfl, rfl, rfl, rfl, rfl⟩

/-- After a transport error less than a frame stands on the wire (R293). -/
theorem lostLink_spec (s : State) : s.lostLink.poss = allTaps ∧ s.lostLink.tms = none ∧ s.lostLink.torn = true ∧
    decodeFrame s.cfg s.lostLink.stream = .error .truncated :=
  ⟨rfl, rfl, rfl, settle_truncated s.cfg _⟩

end Sys2Proof.Machine
end

