-- ==== Sys2Proof/Laws/PerInstr.lean ====
section
/-! SUPPORT. Facts about every instruction as syntax, one lemma per constructor. -/

namespace Sys2Proof.Laws.EncodingShape

/-- A frame begins with one of the six opcodes (spec/30_encoding.md R70), an operation is a line that ends in its newline
(R88); so no encoding is empty. -/
def Statement (i : Instr) : Prop := ∀ c : Config,
  (i.form = .frame → ∃ b rest, encode c i = b :: rest ∧ b ∈ c.opcodes) ∧
    (i.form = .line → ∃ text, encode c i = text ++ [chNewline])

theorem frame_shape {i : Instr} (hf : i.form = .frame) (h : ∀ c, ∃ b rest, encode c i = b :: rest ∧ b ∈ c.opcodes) :
    Statement i := fun c => ⟨fun _ => h c, fun hl => by simp [hf] at hl⟩

theorem line_shape {i : Instr} (hf : i.form = .line) (h : ∀ c, ∃ text, encode c i = text ++ [chNewline]) :
    Statement i := fun c => ⟨fun hl => by simp [hf] at hl, fun _ => h c⟩

theorem line1_ends (name arg : List Byte) : ∃ text, line1 name arg = text ++ [chNewline] :=
  ⟨name ++ chSpace :: arg, by simp [line1]⟩

theorem wbits (b : Bits) : Statement (.wbits b) := frame_shape rfl fun c => ⟨_, _, rfl, by simp [Config.opcodes]⟩

theorem wbytes (b : Bits) : Statement (.wbytes b) := frame_shape rfl fun c => ⟨_, _, rfl, by simp [Config.opcodes]⟩

theorem wtms (ev : Bits) (d : Bool) : Statement (.wtms ev d) := frame_shape rfl fun c => ⟨_, _, rfl, by simp [Config.opcodes]⟩

theorem rbits (n : Nat) : Statement (.rbits n) := frame_shape rfl fun c => ⟨_, _, rfl, by simp [Config.opcodes]⟩

theorem rbytes (n : Nat) : Statement (.rbytes n) := frame_shape rfl fun c => ⟨_, _, rfl, by simp [Config.opcodes]⟩

theorem rwbytes (b : Bits) : Statement (.rwbytes b) := frame_shape rfl fun c => ⟨_, _, rfl, by simp [Config.opcodes]⟩

theorem currentState : Statement .currentState := line_shape rfl fun _ => ⟨_, rfl⟩

theorem gReset : Statement .gReset := line_shape rfl fun _ => ⟨_, rfl⟩

theorem findPath (target : Tap) (source : Option Tap) : Statement (.findPath target source) := line_shape rfl fun _ => line1_ends _ _

theorem pathToEvents (path : List Tap) : Statement (.pathToEvents path) := line_shape rfl fun _ => line1_ends _ _

theorem applyEvents (ev : Bits) : Statement (.applyEvents ev) := line_shape rfl fun _ => line1_ends _ _

theorem queue (f : List Byte) : Statement (.queue f) := line_shape rfl fun _ => line1_ends _ _

theorem flush : Statement .flush := line_shape rfl fun _ => ⟨_, rfl⟩

theorem writeBits (b : Bits) : Statement (.writeBits b) := line_shape rfl fun _ => line1_ends _ _

theorem writeBytes (b : Bits) : Statement (.writeBytes b) := line_shape rfl fun _ => line1_ends _ _

theorem write (b : Bits) : Statement (.write b) := line_shape rfl fun _ => line1_ends _ _

theorem writeTms (ev : Bits) : Statement (.writeTms ev) := line_shape rfl fun _ => line1_ends _ _

theorem readBits (n : Nat) : Statement (.readBits n) := line_shape rfl fun _ => line1_ends _ _

theorem readBytes (n : Nat) : Statement (.readBytes n) := line_shape rfl fun _ => line1_ends _ _

theorem read (n : Nat) : Statement (.read n) := line_shape rfl fun _ => line1_ends _ _

theorem shiftBytes (b : Bits) : Statement (.shiftBytes b) := line_shape rfl fun _ => line1_ends _ _

theorem openSession (vid pid idx : Nat) (dir : PinMask) (freq : Nat) : Statement (.openSession vid pid idx dir freq) := line_shape rfl fun _ => line1_ends _ _

theorem close : Statement .close := line_shape rfl fun _ => ⟨_, rfl⟩

theorem changeState (t : Tap) : Statement (.changeState t) := line_shape rfl fun _ => line1_ends _ _

theorem goIdle : Statement .goIdle := line_shape rfl fun _ => ⟨_, rfl⟩

theorem writeIr (b : Bits) : Statement (.writeIr b) := line_shape rfl fun _ => line1_ends _ _

theorem writeDr (b : Bits) : Statement (.writeDr b) := line_shape rfl fun _ => line1_ends _ _

theorem readDr (n : Nat) : Statement (.readDr n) := line_shape rfl fun _ => line1_ends _ _

theorem reset : Statement .reset := line_shape rfl fun _ => ⟨_, rfl⟩

theorem idcode : Statement .idcode := line_shape rfl fun _ => ⟨_, rfl⟩

theorem preload (b : Bits) : Statement (.preload b) := line_shape rfl fun _ => line1_ends _ _

theorem sample : Statement .sample := line_shape rfl fun _ => ⟨_, rfl⟩

theorem extest (b : Bits) : Statement (.extest b) := line_shape rfl fun _ => line1_ends _ _

theorem readback : Statement .readback := line_shape rfl fun _ => ⟨_, rfl⟩

end Sys2Proof.Laws.EncodingShape
end

