-- ==== Sys2Proof/Tests/Slice0.lean ====
section
/-! SUPPORT. Tests with expected values from spec/95_test_vectors.md and the rules' examples; a smoke test for every
check of WellFormed; and for each statement with hypotheses a state and operands that meet them. -/

namespace Sys2Proof.Tests

open Sys2Proof Sys2Proof.Machine

/-- The default parameters with a known settle delay. -/
def cfg0 : Config := { Config.default with settleDelay := 0 }

/-- A link whose remote TAP is in TLR, every register zero. -/
def link0 : Link where
  poss := [.tlr]
  tms := some true
  out := []
  irSh := List.replicate 4 false
  drSh := List.replicate 32 false
  irUpd := List.replicate 4 false
  drUpd := List.replicate 32 false
  wire := []
  torn := false
  free := 0

/-- An open, synchronised session with an empty buffer. -/
def s0 : State where
  cfg := cfg0
  session := .opened
  tap := .tlr
  buf := []
  carryV := false
  carryB := false
  dir := 0x1B
  link := link0
  events := []
  reply := none
  inp := []
  prov := { preload := [false, false, true, false], sample := [false, false, true, false],
            extest := [false, false, false, false], boundaryLength := 6 }
  requests := []
  began := { calls := 0, link := link0 }
  turn := .block

/-- The state after an instruction. -/
def after (i : Instr) (s : State) : State :=
  match exec i s with
  | .next t => t
  | .fault _ => s
  | .refused _ => s

/-- The state after a step. -/
def afterStep (s : State) : State :=
  match step s with
  | .next t => t
  | .fault _ => s
  | .refused _ => s

/-- The bytes of the `TxWrite` calls that completed. -/
def sentBytes (s : State) : List (List Byte) :=
  s.events.filterMap fun e =>
    match e with
    | .write bs true => some bs
    | _ => none

/-! ## Well-formedness: one ill-formed term for each check (30_encoding.md R83) -/

theorem test_wf_refuses_wbits_empty : Instr.wellFormed cfg0 (.wbits []) = false := by decide

theorem test_wf_refuses_wbits_nine : Instr.wellFormed cfg0 (.wbits (List.replicate 9 true)) = false := by decide

theorem test_wf_refuses_wbytes_empty : Instr.wellFormed cfg0 (.wbytes []) = false := by decide

theorem test_wf_refuses_wbytes_unaligned :
    Instr.wellFormed cfg0 (.wbytes (List.replicate 9 true)) = false := by decide

theorem test_wf_refuses_wbytes_too_long :
    Instr.wellFormed { cfg0 with maxFrame := 5 } (.wbytes (List.replicate (8 * 3) true)) = false := by decide

theorem test_wf_refuses_wtms_empty : Instr.wellFormed cfg0 (.wtms [] true) = false := by decide

theorem test_wf_refuses_wtms_eight : Instr.wellFormed cfg0 (.wtms (List.replicate 8 true) true) = false := by decide

theorem test_wf_refuses_rbits_zero : Instr.wellFormed cfg0 (.rbits 0) = false := by decide

theorem test_wf_refuses_rbits_nine : Instr.wellFormed cfg0 (.rbits 9) = false := by decide

theorem test_wf_refuses_rbytes_zero : Instr.wellFormed cfg0 (.rbytes 0) = false := by decide

theorem test_wf_refuses_rbytes_too_long : Instr.wellFormed cfg0 (.rbytes 513) = false := by decide

theorem test_wf_refuses_rwbytes_empty : Instr.wellFormed cfg0 (.rwbytes []) = false := by decide

theorem test_wf_refuses_rwbytes_unaligned :
    Instr.wellFormed cfg0 (.rwbytes (List.replicate 12 true)) = false := by decide

theorem test_wf_refuses_rwbytes_too_long :
    Instr.wellFormed { cfg0 with maxFrame := 5 } (.rwbytes (List.replicate (8 * 3) true)) = false := by decide

theorem test_wf_accepts_largest_frames :
    Instr.wellFormed cfg0 (.wtms (List.replicate 7 true) false) = true ∧ Instr.wellFormed cfg0 (.rbytes 512) = true :=
      by decide

/-! ## Decoding: words written out from the layouts of 30_encoding.md R73 to R78 and R79 (byte 0 in bits 7..0) -/

theorem test_decode_wbits : decodeTableWord 24 0x05021B = some (.wbits [true, false, true]) := by decide

theorem test_decode_wbytes :
    decodeTableWord 40 0x8003000119 = some (.wbytes [true, true, false, false, false, false, false, false, false,
      false, false, false, false, false, false, true]) := by decide

theorem test_decode_wtms : decodeTableWord 24 0x9F044B = some (.wtms [true, true, true, true, true] true) := by decide

theorem test_decode_wtms_tdi_zero :
    decodeTableWord 24 0x02034B = some (.wtms [false, true, false, false] false) := by decide

theorem test_decode_rbits : decodeTableWord 16 0x072A = some (.rbits 8) := by decide

theorem test_decode_rbytes : decodeTableWord 24 0x01FF28 = some (.rbytes 512) := by decide

theorem test_decode_rwbytes :
    decodeTableWord 32 0x01000039 = some (.rwbytes [true, false, false, false, false, false, false, false]) :=
      by decide

theorem test_decode_zero_payload :
    decodeTableWord 24 0x000019 = some (.wbytes [false, false, false, false, false, false, false, false]) := by decide

theorem test_decode_refuses_reserved_lengths :
    decode cfg0 .frame [0x1B#8, 8#8, 0#8] = .error .reservedLength ∧ decode cfg0 .frame [0x4B#8, 7#8, 0#8] =
      .error .reservedLength ∧ decode cfg0 .frame [0x2A#8, 8#8] = .error .reservedLength := by decide

theorem test_decode_refuses_unknown :
    decodeFrame cfg0 [0xAA#8] = .error .unknownOpcode ∧ decode cfg0 .line (ascii ['r', 'e', 's', 't', '\n']) =
      .error .unknownOperation ∧ decode cfg0 .line (ascii ['r', 'e', 'a', 'd', ' ', 'x', '\n']) =
      .error .badOperand := by decide

theorem test_encode_frames :
    encode cfg0 (.wbits [true, false, true]) = [0x1B#8, 0x02#8, 0x05#8] ∧ encode cfg0 (.wtms [false, true, false,
      false] true) = [0x4B#8, 0x03#8, 0x82#8] ∧ encode cfg0 (.rbits 3) = [0x2A#8, 0x02#8] ∧
      encode cfg0 (.rbytes 512) = [0x28#8, 0xFF#8, 0x01#8] := by decide

/-! ## Decoding: each operation's line written out from 30_encoding.md R85 and R88 -/

theorem test_decode_line_currentState :
    decode cfg0 .line (ascii ['c', 'u', 'r', 'r', 'e', 'n', 't', '_', 's', 't', 'a', 't', 'e', '\n']) =
      .ok (.currentState, []) := by decide

theorem test_decode_line_gReset :
    decode cfg0 .line (ascii ['G', '.', 'r', 'e', 's', 'e', 't', '\n']) = .ok (.gReset, []) := by decide

theorem test_decode_line_findPath :
    decode cfg0 .line (ascii ['f', 'i', 'n', 'd', '_', 'p', 'a', 't', 'h', ' ', 'S', 'H', 'D', 'R', ' ', 'f', 'r',
      'o', 'm', ' ', 'R', 'T', 'I', '\n']) = .ok (.findPath .shdr (some .rti), []) := by decide

theorem test_decode_line_findPath_pointer :
    decode cfg0 .line (ascii ['f', 'i', 'n', 'd', '_', 'p', 'a', 't', 'h', ' ', 'S', 'H', 'D', 'R', '\n']) =
      .ok (.findPath .shdr none, []) := by decide

theorem test_decode_line_pathToEvents :
    decode cfg0 .line (ascii ['p', 'a', 't', 'h', '_', 't', 'o', '_', 'e', 'v', 'e', 'n', 't', 's', ' ', '[', 'R',
      'T', 'I', ',', 'S', 'E', 'L', 'D', 'R', ']', '\n']) = .ok (.pathToEvents [.rti, .seldr], []) := by decide

theorem test_decode_line_applyEvents :
    decode cfg0 .line (ascii ['a', 'p', 'p', 'l', 'y', '_', 'e', 'v', 'e', 'n', 't', 's', ' ', '0', '1', '0', '0',
      '\n']) = .ok (.applyEvents [false, true, false, false], []) := by decide

theorem test_decode_line_applyEvents_empty :
    decode cfg0 .line (ascii ['a', 'p', 'p', 'l', 'y', '_', 'e', 'v', 'e', 'n', 't', 's', ' ', '[', ']', '\n']) =
      .ok (.applyEvents [], []) := by decide

theorem test_decode_line_queue :
    decode cfg0 .line (ascii ['q', 'u', 'e', 'u', 'e', ' ', '4', 'B', ' ', '0', '0', ' ', '8', '0', '\n']) =
      .ok (.queue [0x4B#8, 0x00#8, 0x80#8], []) := by decide

theorem test_decode_line_flush :
    decode cfg0 .line (ascii ['f', 'l', 'u', 's', 'h', '\n']) = .ok (.flush, []) := by decide

theorem test_decode_line_writeBits :
    decode cfg0 .line (ascii ['w', 'r', 'i', 't', 'e', '_', 'b', 'i', 't', 's', ' ', '1', '0', '1', '\n']) =
      .ok (.writeBits [true, false, true], []) := by decide

theorem test_decode_line_writeBytes :
    decode cfg0 .line (ascii ['w', 'r', 'i', 't', 'e', '_', 'b', 'y', 't', 'e', 's', ' ', '1', '1', '0', '0', '0',
      '0', '0', '0', '\n']) = .ok (.writeBytes [true, true, false, false, false, false, false, false], []) :=
      by decide

theorem test_decode_line_write :
    decode cfg0 .line (ascii ['w', 'r', 'i', 't', 'e', ' ', '1', '0', '\n']) = .ok (.write [true, false], []) :=
      by decide

theorem test_decode_line_writeTms :
    decode cfg0 .line (ascii ['w', 'r', 'i', 't', 'e', '_', 't', 'm', 's', ' ', '0', '1', '1', '\n']) =
      .ok (.writeTms [false, true, true], []) := by decide

theorem test_decode_line_readBits :
    decode cfg0 .line (ascii ['r', 'e', 'a', 'd', '_', 'b', 'i', 't', 's', ' ', '3', '\n']) = .ok (.readBits 3, []) :=
      by decide

theorem test_decode_line_readBytes :
    decode cfg0 .line (ascii ['r', 'e', 'a', 'd', '_', 'b', 'y', 't', 'e', 's', ' ', '5', '1', '2', '\n']) =
      .ok (.readBytes 512, []) := by decide

theorem test_decode_line_read :
    decode cfg0 .line (ascii ['r', 'e', 'a', 'd', ' ', '1', '2', '\n']) = .ok (.read 12, []) := by decide

theorem test_decode_line_shiftBytes :
    decode cfg0 .line (ascii ['s', 'h', 'i', 'f', 't', '_', 'b', 'y', 't', 'e', 's', ' ', '1', '0', '0', '0', '0',
      '0', '0', '0', '\n']) = .ok (.shiftBytes [true, false, false, false, false, false, false, false], []) :=
      by decide

theorem test_decode_line_openSession :
    decode cfg0 .line (ascii ['o', 'p', 'e', 'n', ' ', '1', '0', '2', '7', ' ', '2', '4', '5', '9', '2', ' ', '1',
      ' ', '2', '7', ' ', '6', '0', '0', '0', '0', '0', '0', '\n']) =
      .ok (.openSession 1027 24592 1 27 6000000, []) := by decide

theorem test_decode_line_close :
    decode cfg0 .line (ascii ['c', 'l', 'o', 's', 'e', ' ', ';', ' ', 'd', 'o', 'n', 'e', '\n']) = .ok (.close, []) :=
      by decide

theorem test_decode_line_changeState :
    decode cfg0 .line (ascii ['c', 'h', 'a', 'n', 'g', 'e', '_', 's', 't', 'a', 't', 'e', ' ', 'E', 'X', '2', 'I',
      'R', '\n']) = .ok (.changeState .ex2ir, []) := by decide

theorem test_decode_line_goIdle :
    decode cfg0 .line (ascii ['g', 'o', '_', 'i', 'd', 'l', 'e', '\n']) = .ok (.goIdle, []) := by decide

theorem test_decode_line_writeIr :
    decode cfg0 .line (ascii ['w', 'r', 'i', 't', 'e', '_', 'i', 'r', ' ', '0', '0', '0', '1', '\n']) =
      .ok (.writeIr [false, false, false, true], []) := by decide

theorem test_decode_line_writeDr :
    decode cfg0 .line (ascii ['w', 'r', 'i', 't', 'e', '_', 'd', 'r', ' ', '1', '0', '1', '1', '\n']) =
      .ok (.writeDr [true, false, true, true], []) := by decide

theorem test_decode_line_readDr :
    decode cfg0 .line (ascii ['r', 'e', 'a', 'd', '_', 'd', 'r', ' ', '3', '2', '\n']) = .ok (.readDr 32, []) :=
      by decide

theorem test_decode_line_reset :
    decode cfg0 .line (ascii ['r', 'e', 's', 'e', 't', '\n']) = .ok (.reset, []) := by decide

theorem test_decode_line_idcode :
    decode cfg0 .line (ascii ['i', 'd', 'c', 'o', 'd', 'e', '\n']) = .ok (.idcode, []) := by decide

theorem test_decode_line_preload :
    decode cfg0 .line (ascii ['p', 'r', 'e', 'l', 'o', 'a', 'd', ' ', '1', '0', '1', '1', '0', '0', '\n']) =
      .ok (.preload [true, false, true, true, false, false], []) := by decide

theorem test_decode_line_sample :
    decode cfg0 .line (ascii ['s', 'a', 'm', 'p', 'l', 'e', '\n']) = .ok (.sample, []) := by decide

theorem test_decode_line_extest :
    decode cfg0 .line (ascii ['e', 'x', 't', 'e', 's', 't', ' ', '1', '\n']) = .ok (.extest [true], []) := by decide

theorem test_decode_line_readback :
    decode cfg0 .line (ascii ['r', 'e', 'a', 'd', 'b', 'a', 'c', 'k', '\n']) = .ok (.readback, []) := by decide

theorem test_decode_any_opcode :
    decode { cfg0 with opcWbits := 0x66#8 } .line (ascii ['f', 'l', 'u', 's', 'h', '\n']) = .ok (.flush, []) ∧
      decode { cfg0 with opcWbits := 0x66#8 } .frame [0x66#8, 0#8, 1#8] = .ok (.wbits [true], []) := by decide

theorem test_decode_mask_width :
    decode cfg0 .line (ascii ['o', 'p', 'e', 'n', ' ', '1', ' ', '2', ' ', '3', ' ', '2', '5', '6', ' ', '4', '\n']) =
      .error .badOperand ∧ decode { cfg0 with dirWidth := 9 } .line (ascii ['o', 'p', 'e', 'n', ' ', '1', ' ', '2',
      ' ', '3', ' ', '2', '5', '6', ' ', '4', '\n']) = .ok (.openSession 1 2 3 256 4, []) := by decide

theorem test_wf_refuses_wide_mask : Instr.wellFormed cfg0 (.openSession 1 2 3 256 4) = false := by decide

theorem test_wf_config :
    { cfg0 with opcWbits := 0x66#8 }.wf = true ∧ { cfg0 with opcWbits := 0x19#8 }.wf = false ∧
      { cfg0 with dirWidth := 4 }.wf = false ∧ { cfg0 with dirWidth := 16 }.wf = true := by decide

/-! ## TapGraph (95_test_vectors.md section 2.1) -/

theorem test_currentState :
    (after .currentState { s0 with tap := .shdr }).reply = some (.ok (.state .shdr)) := by decide

theorem test_gReset :
    (after .gReset { s0 with tap := .pir }).tap = .tlr ∧ (after .gReset { s0 with tap := .pir }).events = [] :=
      by decide

theorem test_findPath :
    (after (.findPath .shdr (some .rti)) s0).reply = some (.ok (.path [.rti, .seldr, .capdr, .shdr])) := by decide

theorem test_findPath_long :
    (after (.findPath .ex2ir none) { s0 with tap := .shdr }).reply = some (.ok (.path [.shdr, .ex1dr, .updr, .seldr,
      .selir, .capir, .ex1ir, .pir, .ex2ir])) := by decide

theorem test_pathToEvents :
    (after (.pathToEvents [.rti, .seldr, .capdr, .shdr]) s0).reply = some (.ok (.bits [true, false, false])) ∧
      (after (.pathToEvents [.tlr, .tlr]) s0).reply = some (.ok (.bits [true])) := by decide

theorem test_pathToEvents_invalid :
    (after (.pathToEvents []) s0).reply = some (.error (.pie (.invalidPath []))) ∧ (after (.pathToEvents [.seldr,
      .seldr]) s0).reply = some (.error (.pie (.invalidPath [.seldr, .seldr]))) := by decide

theorem test_applyEvents :
    (after (.applyEvents [false, true, false, false]) s0).tap = .shdr ∧
      (after (.applyEvents [false]) { s0 with tap := .ex2ir }).tap = .shir := by decide

/-! ## TapFraming (95_test_vectors.md sections 2.2 and 2.3) -/

theorem test_queue_overflow :
    (after (.queue [0x4B#8, 0x00#8,
      0x80#8]) { s0 with cfg := { cfg0 with maxFrame := 8 }, buf := List.replicate 6 0#8 }).buf = [0x4B#8, 0x00#8,
      0x80#8] ∧ sentBytes (after (.queue [0x4B#8, 0x00#8,
      0x80#8]) { s0 with cfg := { cfg0 with maxFrame := 8 }, buf := List.replicate 6 0#8 }) =
      [List.replicate 6 0#8] := by decide

theorem test_queue_exact :
    (after (.queue [1#8, 2#8]) { s0 with cfg := { cfg0 with maxFrame := 8 }, buf := List.replicate 6 0#8 }).events =
      [] := by decide

theorem test_flush :
    sentBytes (after .flush { s0 with buf := [0x4B#8, 0x03#8, 0x82#8] }) = [[0x4B#8, 0x03#8, 0x82#8]] ∧
      (after .flush s0).events = [] := by decide

theorem test_flush_fails :
    (after .flush { s0 with buf := [0x4B#8, 0x03#8, 0x82#8], carryV := true, carryB := true, inp := [.fail] }).reply =
      some (.error (.te .writeFailed)) ∧
      (after .flush { s0 with buf := [0x4B#8, 0x03#8, 0x82#8], carryV := true, carryB := true, inp := [.fail] }).buf =
      [] := by decide

theorem test_writeBits : (after (.writeBits [true, false, true]) s0).buf = [0x1B#8, 0x02#8, 0x05#8] := by decide

theorem test_writeBits_nine :
    (after (.writeBits (List.replicate 9 true)) s0).reply = some (.error (.pie (.bitCount 9))) := by decide

theorem test_writeBytes :
    (after (.writeBytes [true, true, false, false, false, false, false, false, false, false, false, false, false,
      false, false, true]) s0).buf = [0x19#8, 0x01#8, 0x00#8, 0x03#8, 0x80#8] := by decide

theorem test_writeBytes_unaligned :
    (after (.writeBytes (List.replicate 12 true)) s0).reply = some (.error (.pie (.byteAlign 12))) := by decide

theorem test_write :
    (after (.write [true, false, true, true, false, false, true, true, true, false]) s0).buf = [0x19#8, 0x00#8,
      0x00#8, 0xCD#8, 0x1B#8, 0x00#8, 0x01#8] ∧ (after (.write [true, false, true, true, false, false, true, true,
      true, false]) s0).carryV = true ∧ (after (.write [true, false, true, true, false, false, true, true, true,
      false]) s0).carryB = false := by decide

theorem test_write_carry_pending :
    (after (.write [true]) { s0 with carryV := true }).reply = some (.error (.pie .carryPending)) := by decide

theorem test_writeTms : (after (.writeTms [false, true, false, false]) s0).buf = [0x4B#8, 0x03#8, 0x82#8] := by decide

theorem test_writeTms_carry :
    (after (.writeTms [true]) (after (.write [true, false, true, false, true, false, true, false, false]) s0)).buf =
      [0x19#8, 0x00#8, 0x00#8, 0x55#8, 0x4B#8, 0x00#8, 0x01#8] := by decide

theorem test_readBits :
    (after (.readBits 3) { s0 with inp := [.served, .bytes [0xA0#8]] }).reply = some (.ok (.bits [true, false,
      true])) := by decide

theorem test_readBits_lsb :
    (after (.readBits 3) { s0 with cfg := { cfg0 with readBitsJustify := .lsb }, inp := [.served,
      .bytes [0xA0#8]] }).reply = some (.ok (.bits [false, false, false])) := by decide

theorem test_readBytes :
    (after (.readBytes 2) { s0 with inp := [.served, .bytes [0x01#8, 0x80#8]] }).reply = some (.ok (.bits [true,
      false, false, false, false, false, false, false, false, false, false, false, false, false, false, true])) :=
      by decide

theorem test_readBytes_short :
    (after (.readBytes 2) { s0 with inp := [.served, .bytes [0x01#8]] }).reply = some (.error (.te .shortRead)) :=
      by decide

theorem test_read :
    (after (.read 12) { s0 with inp := [.served, .bytes [0x34#8], .served, .bytes [0x50#8]] }).reply =
      some (.ok (.bits [false, false, true, false, true, true, false, false, true, false, true, false])) := by decide

theorem test_read_sends :
    sentBytes (after (.read 12) { s0 with inp := [.served, .bytes [0x34#8], .served, .bytes [0x50#8]] }) = [[0x28#8,
      0x00#8, 0x00#8], [0x2A#8, 0x03#8]] := by decide

theorem test_shiftBytes :
    sentBytes (after (.shiftBytes [true, false, false, false, false, false, false,
      false]) { s0 with inp := [.served, .bytes [0xFF#8]] }) = [[0x39#8, 0x00#8, 0x00#8, 0x01#8]] ∧
      (after (.shiftBytes [true, false, false, false, false, false, false,
      false]) { s0 with inp := [.served, .bytes [0xFF#8]] }).reply = some (.ok (.bits [true, true, true, true, true,
      true, true, true])) := by decide

/-! ## JtagEngine (95_test_vectors.md sections 2.4 to 2.7) -/

theorem test_openSession :
    (after (.openSession 1 2 3 0x1B 6) { s0 with session := .closed, tap := .pdr, dir := 0 }).dir = 0x1B ∧
      (after (.openSession 1 2 3 0x1B 6) { s0 with session := .closed, tap := .pdr, dir := 0 }).tap = .tlr ∧
      (after (.openSession 1 2 3 0x1B 6) { s0 with session := .closed, inp := [.freq 5] }).reply =
      some (.ok (.freq 5)) := by decide

theorem test_openSession_twice :
    (after (.openSession 1 2 3 0x1B 6) s0).reply = some (.error (.cme .alreadyOpen)) := by decide

theorem test_close :
    (after .close { s0 with buf := [0x4B#8, 0x01#8, 0x83#8] }).session = .closed ∧
      (after .close { s0 with buf := [0x4B#8, 0x01#8, 0x83#8] }).events = [.write [0x4B#8, 0x01#8,
      0x83#8] true, .txClose true] := by decide

theorem test_close_fails :
    (after .close { s0 with inp := [.fail] }).session = .opened ∧ (after .close { s0 with inp := [.fail] }).reply =
      some (.error (.te .closeFailed)) := by decide

theorem test_changeState :
    (after (.changeState .shdr) s0).buf = [0x4B#8, 0x03#8, 0x82#8] ∧ (after (.changeState .shdr) s0).tap = .shdr :=
      by decide

theorem test_changeState_long_carry :
    (after (.changeState .ex2ir) { s0 with tap := .shdr, carryV := true }).buf = [0x4B#8, 0x06#8, 0x2F#8, 0x4B#8,
      0x00#8, 0x81#8] := by decide

theorem test_goIdle :
    (after .goIdle { s0 with tap := .updr }).buf = [0x4B#8, 0x00#8, 0x80#8] ∧
      (after .goIdle { s0 with tap := .updr }).tap = .rti := by decide

theorem test_writeIr :
    (after (.writeIr [false, false, false, true]) s0).buf = [0x4B#8, 0x04#8, 0x86#8, 0x1B#8, 0x02#8, 0x00#8, 0x4B#8,
      0x01#8, 0x83#8] ∧ (after (.writeIr [false, false, false, true]) s0).tap = .upir := by decide

theorem test_writeDr :
    (after (.writeDr [true, false, true, false, true, false, true, false, true]) { s0 with tap := .rti }).buf =
      [0x4B#8, 0x02#8, 0x81#8, 0x19#8, 0x00#8, 0x00#8, 0x55#8, 0x4B#8, 0x01#8, 0x83#8] := by decide

theorem test_readDr :
    sentBytes (after (.readDr 32) s0) = [[0x4B#8, 0x03#8, 0x82#8, 0x28#8, 0x03#8, 0x00#8]] ∧
      (after (.readDr 32) s0).buf = [0x4B#8, 0x01#8, 0x83#8] ∧ (after (.readDr 32) s0).tap = .updr := by decide

theorem test_readDr_target :
    (after (.readDr 4) s0).reply = some (.ok (.bits [true, true, true, false])) ∧ (after (.readDr 4) s0).events =
      [.write [0x4B#8, 0x03#8, 0x82#8, 0x2A#8, 0x03#8] true, .read 1 (some [0x70#8])] := by decide

theorem test_reset :
    (after .reset { s0 with tap := .shdr, buf := [0x4B#8, 0x03#8, 0x82#8] }).events = [.write [0x4B#8, 0x03#8,
      0x82#8] true, .setPins 0x08 0x1B true, .delay 0, .setPins 0x18 0x1B true, .delay 0, .write [0x4B#8, 0x04#8,
      0x9F#8] true] := by decide

theorem test_reset_pins_fail :
    (after .reset { s0 with tap := .shdr, inp := [.fail] }).reply = some (.error (.te .pinsFailed)) ∧
      (after .reset { s0 with tap := .shdr, inp := [.fail] }).tap = .shdr := by decide

theorem test_idcode :
    (after .idcode s0).reply = some (.ok (.int 0x4BA00477)) ∧ (after .idcode s0).tap = .rti ∧ (after .idcode s0).buf =
      [0x4B#8, 0x01#8, 0x83#8, 0x4B#8, 0x00#8, 0x80#8] := by decide

theorem test_preload :
    (after (.preload [true, false, true, true, false, false]) s0).buf = [0x4B#8, 0x04#8, 0x86#8, 0x1B#8, 0x02#8,
      0x04#8, 0x4B#8, 0x01#8, 0x03#8, 0x4B#8, 0x02#8, 0x81#8, 0x1B#8, 0x04#8, 0x0D#8, 0x4B#8, 0x01#8, 0x03#8, 0x4B#8,
      0x00#8, 0x80#8] := by decide

theorem test_extest :
    (after (.extest [true]) s0).buf = [0x4B#8, 0x04#8, 0x86#8, 0x1B#8, 0x02#8, 0x00#8, 0x4B#8, 0x01#8, 0x03#8, 0x4B#8,
      0x02#8, 0x81#8, 0x4B#8, 0x01#8, 0x83#8, 0x4B#8, 0x00#8, 0x80#8] := by decide

/-- The target of 95_test_vectors.md section 2.7: `DR_LEN` 6, `DR_CAPTURE` 0b110111. -/
def s6 : State :=
  { s0 with
    cfg := { cfg0 with drLen := 6, drCapture := 0b110111 }
    link := { link0 with drSh := List.replicate 6 false, drUpd := List.replicate 6 false } }

theorem test_sample :
    (after .sample s6).reply = some (.ok (.bits [true, true, true, false, true, true])) ∧ (after .sample s6).events =
      [.write [0x4B#8, 0x04#8, 0x86#8, 0x1B#8, 0x02#8, 0x04#8, 0x4B#8, 0x01#8, 0x03#8, 0x4B#8, 0x02#8, 0x81#8, 0x2A#8,
      0x05#8] true, .read 1 (some [0xDC#8])] := by decide

theorem test_sample_negative :
    (after .sample { s0 with prov := { s0.prov with boundaryLength := -1 } }).reply =
      some (.error (.pie (.providerValue (-1)))) := by decide

theorem test_readback :
    (after .readback s6).reply = some (.ok (.bits [true, true, true, false, true, true])) ∧ (after .readback s6).buf =
      [0x4B#8, 0x01#8, 0x83#8, 0x4B#8, 0x00#8, 0x80#8] := by decide

/-! ## The link (95_test_vectors.md section 2.8, 43_link_model.md) -/

/-- The link's turn, the remote TAP in a shift or other state with the line at 0. -/
def linkAt (t : Tap) : State := { s0 with turn := .link, link := { link0 with poss := [t], tms := some false } }

theorem test_link_wbits_unstable : (after (.wbits [true]) (linkAt .capdr)).link.poss = [.shdr] := by decide

theorem test_link_wbits_shifts :
    (after (.wbits [true, true]) (linkAt .shdr)).link.drSh = List.replicate 30 false ++ [true, true] := by decide

theorem test_link_wbytes_shifts :
    (after (.wbytes [true, true, true, true, true, false, true, false]) (linkAt .shir)).link.irSh = [true, false,
      true, false] := by decide

theorem test_link_wtms_unknown :
    (after (.wtms [false, true, false,
      false] true) { linkAt .tlr with link := { link0 with poss := allTaps, tms := none } }).link.poss = [.shdr, .pdr,
      .shir, .pir] := by decide

theorem test_link_wtms_exit_shifts :
    (after (.wtms [true, false,
      true] true) { linkAt .pdr with link := { (linkAt .pdr).link with drSh := [true, true, true, false, true, true, true, false] } }).link.drSh =
      [true, true, false, true, true, true, false, true] := by decide

theorem test_link_rbits :
    (after (.rbits 4) { linkAt .shdr with link := { (linkAt .shdr).link with drSh := [true, true, true, false, true, true, true, false] } }).link.out =
      [0x70#8] := by decide

theorem test_link_rbits_lsb :
    justified { cfg0 with readBitsJustify := .lsb } 4 (({ link0 with free := 0 }.bitsResponse { cfg0 with readBitsJustify := .lsb } [true,
      true, true, false]).1) = [true, true, true, false] := justified_bitsResponse _ [true, true, true,
      false] _ (by decide)

theorem test_te_part :
    ∃ n, link0.replay cfg0 n (.write [1#8, 2#8] false) =
      { link0 with wire := [[1#8, 2#8].take (Config.freeCut n)] } := ⟨0, rfl⟩

/-- A failed pin change with one earlier frame and one response waiting. -/
def sPins : State :=
  { s0 with
    events := [.write [0x2A#8, 0#8] true], link := { link0 with out := [7#8] }
    began := { calls := 1, link := { link0 with out := [7#8] } }, inp := [.fail] }

theorem test_te_pins :
    (after .reset sPins).link.wire = [] ∧ (after .reset sPins).link.out = [7#8] ∧ (after .reset sPins).link.torn =
      true ∧ (after .reset sPins).reply = some (.error (.te .pinsFailed)) := by decide

theorem test_reset_half_frame : (after .reset { s0 with buf := [0x4B#8, 0x04#8] }).remote.poss = allTaps := by decide

/-- The same after a failed call. -/
def sTorn : State := { s0 with buf := [0x4B#8, 0x04#8], link := { link0 with poss := [.pdr], torn := true } }

theorem test_reset_torn :
    (after .reset sTorn).remote.poss = [.tlr] ∧ (after .reset sTorn).link.torn = false := by decide

theorem test_link_capir :
    (after (.wtms [false] true) (linkAt .selir)).link.irSh = [true, false, false, false] := by decide

theorem test_preload_order :
    (after (.preload []) { s0 with carryV := true }).reply = some (.error (.pie .emptyWrite)) ∧
      (after (.preload []) { s0 with carryV := true, cfg := { cfg0 with facilityOrder := .carryFirst } }).reply =
      some (.error (.pie .carryPending)) := by decide

theorem test_decode_path_spaces :
    decode cfg0 .line (ascii ['p', 'a', 't', 'h', '_', 't', 'o', '_', 'e', 'v', 'e', 'n', 't', 's', ' ', '[', 'R',
      'T', 'I', ',', ' ', 'S', 'E', 'L', 'D', 'R', ',', 'C', 'A', 'P', 'D', 'R', ']', '\n']) =
      .ok (.pathToEvents [.rti, .seldr, .capdr], []) := by decide

theorem test_link_rbytes :
    (after (.rbytes 1) { linkAt .shdr with link := { (linkAt .shdr).link with drSh := [true, true, false, true, false, false, true, true] } }).link.out =
      [0xCB#8] := by decide

theorem test_link_rwbytes :
    (after (.rwbytes [true, false, false, false, false, false, false,
      false]) { linkAt .shdr with link := { (linkAt .shdr).link with drSh := [true, true, false, true, false, false, true, true] } }).link.out =
      [0xCB#8] ∧ (after (.rwbytes [true, false, false, false, false, false, false,
      false]) { linkAt .shdr with link := { (linkAt .shdr).link with drSh := [true, true, false, true, false, false, true, true] } }).link.drSh =
      [true, false, false, false, false, false, false, false] := by decide

theorem test_reset_pins :
    ∃ k, (after .reset { s0 with link := { link0 with poss := [.pdr], irSh := [true] } }).link =
      { link0 with poss := [.tlr], irSh := [true], wire := [[0x4B#8, 0x04#8, 0x9F#8]], free := k } := ⟨0, by decide⟩

theorem test_step_unknown_opcode :
    (afterStep { s0 with link := { link0 with wire := [[0xAA#8, 0x4B#8]] } }).link.poss = allTaps ∧
      (afterStep { s0 with link := { link0 with wire := [[0xAA#8, 0x4B#8]] } }).link.wire = [] := by decide

theorem test_step_frame :
    (afterStep (s0.withFetchWord 24 0x82034B)).link.poss = [.shdr] ∧
      (afterStep (s0.withFetchWord 24 0x82034B)).link.wire = [] := by decide

theorem test_step_request :
    (afterStep { s0 with requests := [{ form := .line, bytes := ascii ['g', 'o', '_', 'i', 'd', 'l', 'e', '\n'], answers := [], prov := s0.prov }] }).tap =
      .rti := by decide

theorem test_step_reset_is_idle :
    (afterStep State.reset).requests = [] ∧ (afterStep State.reset).events = [] := by decide

/-! ## Witnesses: for each statement with hypotheses, and each of its clauses, a state and operands that meet them -/

/-- A carry pending. -/
def sCarry : State := { s0 with carryV := true, carryB := true }

/-- A carry pending, the facility operations checking it first. -/
def sCarryFirst : State := { sCarry with cfg := { cfg0 with facilityOrder := .carryFirst } }

/-- A closed session. -/
def sClosed : State := { s0 with session := .closed }

/-- The next call fails. -/
def sFail : State := { s0 with inp := [.fail] }

/-- A buffer of five bytes with room for none, the next call completing or failing. -/
def sFull (a : TxAnswer) : State :=
  { s0 with cfg := { cfg0 with maxFrame := 5 }, buf := [0x2A#8, 0#8, 0x4B#8, 0#8, 0x80#8], inp := [a] }

/-- The link's turn with a request waiting. -/
def sRequest : State :=
  { s0 with requests := [{ form := .line, bytes := ascii ['f', 'l', 'u', 's', 'h', '\n'], answers := [], prov := s0.prov }] }

def sBadRequest : State := { s0 with requests := [{ form := .line, bytes := ascii ['x', '\n'], answers := [], prov := s0.prov }] }

def sWire (bs : List Byte) : State := { s0 with link := { link0 with wire := [bs] } }

/-- LEGACY with a carry pending. -/
def sLegacy : State := { sCarry with cfg := { cfg0 with carryPolicy := .legacy } }

theorem witness_StepRunsDecodedInstruction_frame :
    decodeFrame cfg0 (sWire [0x2A#8, 0x02#8, 0x4B#8]).link.wire.flatten = .ok (.rbits 3, [0x4B#8]) := by decide

theorem witness_StepRunsDecodedInstruction_request :
    decodeFrame sRequest.cfg sRequest.link.wire.flatten = .error .truncated ∧ (∃ r rs, sRequest.requests = r :: rs ∧
      decode sRequest.cfg r.form r.bytes = .ok (.flush, [])) := ⟨by decide, _, _, rfl, by decide⟩

theorem witness_StepWithoutInstruction_idle :
    decodeFrame s0.cfg s0.link.wire.flatten = .error .truncated ∧ s0.requests = [] := by decide

theorem witness_StepWithoutInstruction_bad :
    decodeFrame sBadRequest.cfg sBadRequest.link.wire.flatten = .error .truncated ∧ (∃ r rs, sBadRequest.requests =
      r :: rs ∧ decode sBadRequest.cfg r.form r.bytes = .error .unknownOperation) := ⟨by decide, _, _, rfl, by decide⟩

theorem witness_StepWithoutInstruction_two :
    decode cfg0 .line (ascii ['f', 'l', 'u', 's', 'h', '\n', 'f']) = .ok (.flush, 0x66#8 :: []) := by decide

theorem witness_StepWithoutInstruction_unknown :
    (sWire [0xAA#8]).link.wire = (0xAA#8 :: []) :: [] ∧ 0xAA#8 ∉ (sWire [0xAA#8]).cfg.opcodes := by decide

theorem witness_StepWithoutInstruction_reserved :
    decodeFrame cfg0 (sWire [0x2A#8, 8#8]).link.wire.flatten = .error .reservedLength := by decide

theorem witness_FrameRoundTrip :
    cfg0.wf = true ∧ Frame.wellFormed cfg0 (.wtms (List.replicate 7 true) false) = true ∧
      Frame.wellFormed cfg0 (.wbytes (List.replicate 16 true)) = true ∧ Frame.wellFormed cfg0 (.rbytes 512) = true :=
      by decide

theorem witness_InstructionRoundTrip :
    cfg0.wf = true ∧ Instr.wellFormed cfg0 (.rwbytes (List.replicate 8 true)) = true ∧
      Instr.wellFormed cfg0 (.openSession 1027 24592 1 0xFF 0) = true ∧ Instr.wellFormed cfg0 (.pathToEvents []) =
      true := by decide

theorem witness_FrameLengthFromFirstBytes :
    cfg0.wf = true ∧ Frame.wellFormed cfg0 (.rbits 8) = true ∧ Frame.wellFormed cfg0 (.wbits [true]) = true ∧
      Frame.wellFormed cfg0 (.wbytes (List.replicate 8 true)) = true := by decide

theorem witness_PathEventsFollowEdges_invalid :
    ([] : List Tap) = [] ∧ (∃ k a d, [Tap.rti, .capdr][k]? = some a ∧ [Tap.rti, .capdr][k + 1]? = some d ∧
      ∀ e, nxt a e ≠ d) := ⟨rfl, 0, .rti, .capdr, by decide⟩

theorem witness_PathEventsFollowEdges_valid :
    [Tap.rti] ≠ [] ∧ ∀ k a d, [Tap.rti][k]? = some a → [Tap.rti][k + 1]? = some d → ∃ e, nxt a e = d := ⟨by decide,
      by simp⟩

theorem witness_QueueAppendsFrame :
    s0.session = .opened ∧ sClosed.session = .closed ∧
      { cfg0 with maxFrame := 5 }.maxFrame < (List.replicate 6 0#8).length ∧
      (List.replicate 5 0#8).length ≤ (sFull .served).cfg.maxFrame := by decide

theorem witness_Queues_fits : s0.fits 3 ∧ s0.callFails = false := by decide

theorem witness_Queues_flushes : ¬ (sFull .served).fits 3 ∧ (sFull .served).callFails = false := by decide

theorem witness_Queues_fails : ¬ (sFull .fail).fits 3 ∧ (sFull .fail).callFails = true := by decide

theorem witness_FlushSendsWholeBuffer :
    s0.session = .opened ∧ s0.buf = [] ∧ (sFull .served).buf ≠ [] ∧ (sFull .served).callFails = false ∧
      (sFull .fail).callFails = true ∧ sClosed.session = .closed := by decide

theorem witness_WriteBitsQueuesFrame :
    s0.cfg.wf = true ∧ s0.session = .opened ∧ ([] : Bits).length < 1 ∧
      s0.cfg.writeBitsMax < (List.replicate 9 true).length ∧ 1 ≤ (List.replicate 8 true).length ∧
      (List.replicate 8 true).length ≤ s0.cfg.writeBitsMax ∧ s0.carryFree ∧ ¬ sCarry.carryFree := by decide

theorem witness_WriteBytesQueuesFrame :
    s0.session = .opened ∧ (List.replicate 12 true).length % 8 ≠ 0 ∧ (List.replicate 16 true).length % 8 = 0 ∧
      { cfg0 with maxFrame := 5 }.maxFrame < 3 + (List.replicate 24 true).length / 8 ∧
      3 + (List.replicate 16 true).length / 8 ≤ (sFull .served).cfg.maxFrame ∧ s0.carryFree ∧ ¬ sCarry.carryFree :=
      by decide

theorem witness_WriteIsItsParts :
    s0.cfg.wf = true ∧ s0.session = .opened ∧ [true] ≠ [] ∧ s0.carryFree ∧ ¬ sCarry.carryFree ∧
      (sFull .served).cfg.maxFrame < 3 + ((List.replicate 25 true).length - 1) / 8 ∧
      3 + ((List.replicate 24 true).length - 1) / 8 ≤ (sFull .served).cfg.maxFrame := by decide

theorem witness_WriteDefersLastBit :
    s0.session = .opened ∧ s0.carryFree ∧ [true] ≠ [] ∧ (0 < ((List.replicate 10 true).length - 1) / 8 →
      3 + ((List.replicate 10 true).length - 1) / 8 ≤ s0.cfg.maxFrame) ∧
      s0.fits (dataFrames s0.cfg (List.replicate 10 true)).length := by decide

theorem witness_WriteTmsConsumesCarry :
    s0.cfg.wf = true ∧ s0.session = .opened ∧ ([] : Bits).length < 1 ∧
      s0.cfg.tmsMaxEvents < (List.replicate 8 true).length ∧ 1 ≤ (List.replicate 7 true).length ∧
      (List.replicate 7 true).length ≤ s0.cfg.tmsMaxEvents := by decide

theorem witness_ReadBitsExchangesOneByte :
    s0.cfg.wf = true ∧ s0.session = .opened ∧ s0.cfg.readBitsMax < 9 ∧ 8 ≤ s0.cfg.readBitsMax ∧ s0.carryFree ∧
      ¬ sCarry.carryFree := by decide

theorem witness_ReadBytesExchangesBytes :
    s0.cfg.wf = true ∧ s0.session = .opened ∧ s0.cfg.readBytesMax < 513 ∧ 512 ≤ s0.cfg.readBytesMax ∧ s0.carryFree ∧
      ¬ sCarry.carryFree := by decide

theorem witness_ShiftBytesExchangesBytes :
    s0.session = .opened ∧ (List.replicate 7 true).length % 8 ≠ 0 ∧ (List.replicate 16 true).length % 8 = 0 ∧
      (sFull .served).cfg.maxFrame < 3 + (List.replicate 24 true).length / 8 ∧
      3 + (List.replicate 16 true).length / 8 ≤ (sFull .served).cfg.maxFrame ∧ s0.carryFree ∧ ¬ sCarry.carryFree :=
      by decide

theorem witness_Exchanges_overflow :
    ¬ (sFull .served).fits 2 ∧ (sFull .served).callFails = false ∧ ((sFull .served).queued [0x2A#8, 0#8]).callFails =
      false ∧ ¬ (sFull .fail).fits 2 ∧ (sFull .fail).callFails = true := by decide

theorem witness_Exchanges_write_fails : sFail.fits 2 ∧ (sFail.queued [0x2A#8, 0#8]).callFails = true := by decide

theorem witness_Exchanges_reads :
    ({ s0 with inp := [.served, .fail] }.queued [0x2A#8, 0#8]).sent.callFails = true ∧
      ({ s0 with inp := [.served, .bytes [1#8]] }.queued [0x2A#8, 0#8]).sent.answer = .bytes [1#8] ∧
      ({ s0 with inp := [.served, .bytes []] }.queued [0x2A#8, 0#8]).sent.answer = .bytes [] ∧
      (s0.queued [0x2A#8, 0#8]).sent.answer = .served := by decide

theorem witness_ReadIsItsParts :
    s0.cfg.wf = true ∧ s0.session = .opened ∧ s0.cfg.readBytesMax < 4104 / 8 ∧ 4103 / 8 ≤ s0.cfg.readBytesMax ∧
      s0.carryFree ∧ ¬ sCarry.carryFree := by decide

/-- The answers of a `read 12`: a byte part and a bit part. -/
def s12 : State := { s0 with inp := readAnswers 12 [0x34#8] 0x50#8 }

theorem witness_ReadCompletes :
    s12.cfg.wf = true ∧ s12.session = .opened ∧ 12 / 8 ≤ s12.cfg.readBytesMax ∧ s12.carryFree ∧ s12.fits 3 ∧
      (0 < 12 / 8 → [0x34#8].length = 12 / 8) ∧ s12.inp = readAnswers 12 [0x34#8] 0x50#8 ++ [] := by decide

theorem witness_FramesCoalesce :
    s0.session = .opened ∧ s0.fits [[1#8], [2#8, 3#8]].flatten.length ∧ [1#8].length ≤ (sFull .served).cfg.maxFrame ∧
      ¬ (sFull .served).fits [1#8].length ∧ (sFull .served).callFails = false := by decide

theorem witness_CarryReachesExitFrame :
    s0.cfg.wf = true ∧ exec (.write [true, false]) s0 = .next (after (.write [true, false]) s0) ∧
      (after (.write [true, false]) s0).reply = some (.ok .none) ∧ exec (.writeTms [true]) (after (.write [true,
      false]) s0) = .next (after (.writeTms [true]) (after (.write [true, false]) s0)) ∧
      (after (.writeTms [true]) (after (.write [true, false]) s0)).reply = some (.ok .none) := ⟨by decide, rfl,
      by decide, rfl, by decide⟩

theorem witness_LegacyWriteOverwritesCarry :
    sLegacy.cfg.wf = true ∧ sLegacy.cfg.carryPolicy = .legacy ∧ sLegacy.session = .opened ∧ sLegacy.carryV = true ∧
      writeErr sLegacy.cfg [true, false] = none ∧ sLegacy.fits (dataFrames sLegacy.cfg [true, false]).length :=
      by decide

theorem witness_PendingCarryRefuses :
    sCarry.cfg.carryPolicy = .enforce ∧ sCarry.carryV = true ∧ refusedByCarry .readback = true := by decide

theorem witness_OpenStartsSession :
    s0.session = .opened ∧ sClosed.session = .closed ∧ sClosed.callFails = false ∧
      { sClosed with inp := [.fail] }.callFails = true ∧ { sClosed with inp := [.freq 5] }.inp = .freq 5 :: [] :=
      by decide

theorem witness_CloseEndsSession :
    sClosed.session = .closed ∧ s0.session = .opened ∧ ¬ sCarry.carryFree ∧ s0.carryFree ∧ (sFull .fail).buf ≠ [] ∧
      (sFull .fail).callFails = true ∧ (sFull .served).callFails = false ∧ (sFull .served).sent.callFails = false ∧
      sFail.buf = [] ∧ sFail.callFails = true := by decide

theorem witness_ChangeStateIsItsParts :
    s0.cfg.wf = true ∧ s0.session = .opened ∧ s0.tap ≠ .rti ∧ s0.tap = .tlr ∧ sClosed.session = .closed := by decide

theorem witness_ChangeStateQueuesRoute :
    s0.cfg.wf = true ∧ s0.session = .opened ∧ s0.tap ≠ .shir ∧
      s0.fits (routeFrames s0.cfg s0.tap .shir (if s0.carryV then s0.carryB else s0.cfg.tmsTdiDefault)).length :=
      by decide

theorem witness_ChangeStateMovesOrFails :
    (sFull .fail).cfg.wf = true ∧ (sFull .fail).session = .opened ∧ (sFull .fail).tap ≠ .rti := by decide

theorem witness_RegisterOperationsAreTheirParts :
    s0.cfg.wf = true ∧ sClosed.session = .closed ∧ s0.session = .opened ∧ [true] ≠ [] ∧
      (sFull .served).cfg.maxFrame < 3 + ((List.replicate 25 true).length - 1) / 8 ∧
      3 + ((List.replicate 24 true).length - 1) / 8 ≤ (sFull .served).cfg.maxFrame ∧ ¬ sCarry.carryFree ∧
      s0.carryFree ∧ s0.cfg.readBytesMax < 4104 / 8 ∧ 4103 / 8 ≤ s0.cfg.readBytesMax := by decide

theorem witness_FacilityWritesAreTheirParts :
    s0.cfg.wf = true ∧ s0.session = .opened ∧ s0.carryFree ∧ ¬ sCarry.carryFree ∧ sClosed.session = .closed ∧
      writeErr s0.cfg s0.prov.preload = none ∧ writeErr s0.cfg s0.prov.extest = none ∧ writeErr s0.cfg [true] = none ∧
      writeErr s0.cfg [] = some (.pie .emptyWrite) ∧ sCarry.session = .opened ∧ sCarryFirst.session = .opened ∧
      ¬ sCarryFirst.carryFree ∧ sCarryFirst.cfg.facilityOrder = .carryFirst ∧ sCarry.cfg.facilityOrder =
      .argumentsFirst := by decide

theorem witness_FacilityReadsAreTheirParts :
    s0.cfg.wf = true ∧ s0.session = .opened ∧ s0.carryFree ∧ ¬ sCarry.carryFree ∧ sClosed.session = .closed ∧
      s0.prov.boundaryLength = (6 : Nat) ∧ writeErr s0.cfg s0.prov.sample = none ∧ 6 / 8 ≤ s0.cfg.readBytesMax ∧
      s0.cfg.readBytesMax < 4104 / 8 ∧ { s0.prov with boundaryLength := -1 }.boundaryLength < 0 ∧
      writeErr s0.cfg { s0.prov with sample := [] }.sample = some (.pie .emptyWrite) ∧ sCarryFirst.session = .opened ∧
      ¬ sCarryFirst.carryFree ∧ sCarryFirst.cfg.facilityOrder = .carryFirst ∧ sCarry.cfg.facilityOrder =
      .argumentsFirst ∧ sCarry.prov.boundaryLength = (6 : Nat) := by decide

theorem witness_WriteArgumentCheck :
    [true] ≠ [] ∧ 0 < ((List.replicate 25 true).length - 1) / 8 ∧
      { cfg0 with maxFrame := 5 }.maxFrame < 3 + ((List.replicate 25 true).length - 1) / 8 := by decide

theorem witness_RegisterWritesComplete :
    s0.cfg.wf = true ∧ s0.session = .opened ∧ s0.carryFree ∧ writeErr s0.cfg [true, false] = none ∧
      s0.fits (registerFrames s0.cfg s0.tap .shir .upir s0.cfg.tmsTdiDefault [true, false]).length ∧
      s0.fits (registerFrames s0.cfg s0.tap .shdr .updr s0.cfg.tmsTdiDefault [true, false]).length := by decide

theorem witness_RegisterReadsComplete :
    s12.cfg.wf = true ∧ s12.session = .opened ∧ s12.carryFree ∧ 12 / 8 ≤ s12.cfg.readBytesMax ∧ s12.fits 12 ∧
      (0 < 12 / 8 → [0x34#8].length = 12 / 8) ∧ s12.inp = readAnswers 12 [0x34#8] 0x50#8 ++ [] ∧
      { s12.prov with boundaryLength := 12 }.boundaryLength = ((12 : Nat) : Int) ∧ 0 < 12 := by decide

/-- The answers of a `read_dr 32`. -/
def s32 : State := { s0 with inp := readAnswers 32 [0x77#8, 0x04#8, 0xA0#8, 0x4B#8] 0#8 }

theorem witness_RegisterReadsComplete_idcode :
    s32.cfg.wf = true ∧ s32.session = .opened ∧ s32.carryFree ∧ 32 / 8 ≤ s32.cfg.readBytesMax ∧ s32.fits 12 ∧
      (0 < 32 / 8 → [0x77#8, 0x04#8, 0xA0#8, 0x4B#8].length = 32 / 8) ∧ s32.inp = readAnswers 32 [0x77#8, 0x04#8,
      0xA0#8, 0x4B#8] 0#8 ++ [] := by decide

theorem witness_RegisterReadsComplete_sample :
    writeErr s12.cfg s12.prov.sample = none ∧ s12.fits ((dataFrames s12.cfg s12.prov.sample).length + 18) := by decide

theorem witness_FacilityWritesComplete :
    s0.cfg.wf = true ∧ s0.session = .opened ∧ s0.carryFree ∧ writeErr s0.cfg s0.prov.preload = none ∧
      writeErr s0.cfg s0.prov.extest = none ∧ writeErr s0.cfg [true] = none ∧
      s0.fits (registerFrames s0.cfg s0.tap .shir .upir s0.cfg.tmsTdiDefault s0.prov.preload ++ registerFrames s0.cfg .upir .shdr .updr s0.cfg.tmsTdiDefault [true] ++ routeFrames s0.cfg .updr .rti s0.cfg.tmsTdiDefault).length :=
      by decide

theorem witness_ResetDrivesPinsAndEvents :
    s0.cfg.wf = true ∧ s0.session = .opened ∧ (∀ a ∈ s0.inp, a ≠ .fail) ∧ sClosed.session = .closed ∧
      (∀ a ∈ (sFull .served).inp, a ≠ .fail) ∧ (sFull .served).buf ≠ [] := by decide

theorem witness_ClosedSessionRefuses :
    sClosed.session = .closed ∧ needsSession .flush = true ∧ isFrame (.rbits 1) = true ∧ sClosed.turn = .block :=
      by decide

theorem witness_ClosedSessionRefuses_graph :
    writesBuf .gReset = false ∧ exec .gReset sClosed = .next (after .gReset sClosed) := ⟨by decide, rfl⟩

theorem witness_EarlyErrorsHaveNoEffect :
    sCarry.cfg.wf = true ∧ isFrame .readback = false ∧ exec .readback sCarry = .next (after .readback sCarry) ∧
      (after .readback sCarry).reply = some (.error (.pie .carryPending)) ∧ (Err.pie .carryPending).isEarly = true :=
      ⟨by decide, by decide, rfl, by decide, by decide⟩

theorem witness_TransportErrorEmptiesBlock :
    exec .flush (sFull .fail) = .next (after .flush (sFull .fail)) ∧ isFrame .flush = false ∧
      (after .flush (sFull .fail)).reply = some (.error (.te .writeFailed)) := ⟨rfl, by decide, by decide⟩

theorem witness_TransportErrorEmptiesBlock_open :
    exec (.openSession 1 2 3 0 4) { sClosed with inp := [.fail] } =
      .next (after (.openSession 1 2 3 0 4) { sClosed with inp := [.fail] }) ∧
      (after (.openSession 1 2 3 0 4) { sClosed with inp := [.fail] }).reply = some (.error (.te .openFailed)) :=
      ⟨rfl, by decide⟩

theorem witness_TransportErrorLosesRemote :
    exec .reset sFail = .next (after .reset sFail) ∧ isFrame .reset = false ∧ (after .reset sFail).reply =
      some (.error (.te .pinsFailed)) ∧ sFail.began.link.wire.flatten = [] ∧
      decodeFrame sFail.cfg sFail.began.link.wire.flatten = .error .truncated ∧
      ∀ e ∈ (after .reset sFail).events.drop sFail.began.calls, movesBytes e = false := ⟨rfl, by decide⟩

theorem witness_WriteAccessTable :
    exec (.readBits 1) s0 = .next (after (.readBits 1) s0) ∧ writesTap (.readBits 1) = false ∧ writesDir .reset =
      false ∧ writesSession .reset = false ∧ writesBuf .currentState = false ∧ writesCarry (.readBits 1) = false :=
      ⟨rfl, by decide, by decide, by decide, by decide, by decide⟩

theorem witness_BufferIsAppendOnly :
    exec (.writeBits [true]) (after (.writeBits [true]) s0) =
      .next (after (.writeBits [true]) (after (.writeBits [true]) s0)) ∧
      (after (.writeBits [true]) (after (.writeBits [true]) s0)).events = (after (.writeBits [true]) s0).events ∧
      2 < (after (.writeBits [true]) s0).buf.length := ⟨rfl, by decide, by decide⟩

theorem witness_EveryInstructionEnds : s0.turn = .block ∧ isFrame .flush = false := by decide

theorem witness_Inv : s0.Inv := ⟨by decide, by decide, by decide, by decide, by decide, by decide⟩

theorem witness_Synchronised : s0.Synchronised := ⟨by decide, by decide, by decide⟩

theorem witness_StepKeepsInvariant :
    step sRequest = .next (afterStep sRequest) ∧ sRequest.Inv := ⟨rfl, by decide, by decide, by decide, by decide,
      by decide, by decide⟩

theorem witness_RequestedFrameRunsItsOperation : s0.turn = .block := by decide

theorem witness_TmsFrameMovesRemote :
    (linkAt .shdr).turn = .link ∧ [true].getLast? = some true ∧ (linkAt .shdr).link.poss = [.shdr] ∧ [true] ≠ [] ∧
      exec (.wtms [true] false) (linkAt .shdr) = .next (after (.wtms [true] false) (linkAt .shdr)) := ⟨by decide,
      by decide, by decide, by decide, rfl⟩

theorem witness_DataFramesHoldTms :
    (linkAt .shdr).turn = .link ∧ (linkAt .shdr).link.tms = some false ∧ (List.replicate 8 true).length % 8 = 0 ∧
      { link0 with tms := none }.tms = none ∧ 0 < 1 := by decide

theorem witness_ShiftClocksMoveRegister :
    (linkAt .shdr).turn = .link ∧ (linkAt .shdr).link.tms = some false ∧ (linkAt .shdr).link.poss = [.shdr] ∧
      (linkAt .shdr).link.drSh ≠ [] ∧ (linkAt .shir).link.poss = [.shir] ∧ (linkAt .shir).link.irSh ≠ [] := by decide

theorem witness_ReadFramesAnswerRegister :
    (linkAt .shdr).turn = .link ∧ (linkAt .shdr).link.tms = some false ∧ (linkAt .shdr).link.poss = [.shdr] ∧
      (linkAt .shdr).link.drSh ≠ [] ∧ (linkAt .shir).link.tms = some false ∧ (linkAt .shir).link.poss = [.shir] ∧
      (linkAt .shir).link.irSh ≠ [] ∧ (List.replicate 8 true).length % 8 = 0 := by decide

/-- An open session whose remote TAP may be anywhere, with half a frame on the wire. -/
def sAnywhere : State := { s0 with link := { link0 with poss := allTaps, tms := none, wire := [[0x19#8]], torn := true } }

theorem witness_ResetSynchronises :
    sAnywhere.cfg.wf = true ∧ sAnywhere.link.wf sAnywhere.cfg = true ∧ sAnywhere.link.stream = [0x19#8] ∧
      sAnywhere.link.torn = true ∧ s0.remote.stream = [] ∧ exec .reset sAnywhere = .next (after .reset sAnywhere) ∧
      (after .reset sAnywhere).reply = some (.ok .none) := ⟨by decide, by decide, by decide, by decide,
      by decide, rfl, by decide⟩

theorem witness_OperationsKeepSynchronised :
    s0.Inv ∧ s0.Synchronised ∧ keepsPlace .goIdle = true ∧ exec .goIdle s0 = .next (after .goIdle s0) ∧
      (after .goIdle s0).reply = some (.ok .none) := ⟨witness_Inv, witness_Synchronised, by decide, rfl, by decide⟩

theorem witness_OperationsKeepSynchronised_data :
    clocksInPlace (.writeBits [true]) = true ∧ stable s0.tap = true ∧ exec (.writeBits [true]) s0 =
      .next (after (.writeBits [true]) s0) ∧ (after (.writeBits [true]) s0).reply = some (.ok .none) := ⟨by decide,
      by decide, rfl, by decide⟩

theorem witness_RegisterWriteLands :
    s0.Inv ∧ s0.Synchronised ∧ (List.replicate 32 true).length = s0.cfg.drLen ∧
      exec (.writeDr (List.replicate 32 true)) s0 = .next (after (.writeDr (List.replicate 32 true)) s0) ∧
      (after (.writeDr (List.replicate 32 true)) s0).reply = some (.ok .none) := ⟨witness_Inv, witness_Synchronised,
      by decide, rfl, by decide⟩

theorem witness_RegisterWriteLands_ir :
    (List.replicate 4 true).length = s0.cfg.irLen ∧ exec (.writeIr (List.replicate 4 true)) s0 =
      .next (after (.writeIr (List.replicate 4 true)) s0) ∧ (after (.writeIr (List.replicate 4 true)) s0).reply =
      some (.ok .none) := ⟨by decide, rfl, by decide⟩

theorem witness_ReadDrReturnsCapture :
    s0.Inv ∧ s0.Synchronised ∧ s0.session = .opened ∧ s0.carryFree ∧ s0.tap ∉ [Tap.capdr,
      .shdr, .ex1dr, .pdr, .ex2dr] ∧ s0.inp = [] ∧ s0.remote.out = [] ∧ s0.fits 12 ∧
      s0.cfg.drLen / 8 ≤ s0.cfg.readBytesMax := ⟨witness_Inv, witness_Synchronised, by decide, by decide, by decide,
      by decide, by decide, by decide, by decide⟩

end Sys2Proof.Tests
end

/-! # Which fields an operation writes (spec/10_state.md R32)

`Columns` is a row of R32's table and `Confined w s t` the frame it gives: nothing outside the row has changed between
`s` and `t`. Each part of an operation is confined to the columns it writes, whatever the parameters; an operation is
confined to the columns of its parts. -/

namespace Sys2Proof.Machine

/-- A row of R32's table without its column buf: the fields that may be written. -/
structure Columns where
  session : Bool
  tap : Bool
  carry : Bool
  dir : Bool

/-- A transport failure writes the carry too, whatever the row says (R32's last sentence). -/
def Columns.afterReply (w : Columns) : Option Reply → Columns
  | some (.error (.te _)) => { w with carry := true }
  | some (.error (.pie _)) => w
  | some (.error (.cme _)) => w
  | some (.ok _) => w
  | none => w

@[simp] theorem Columns.afterReply_session (w : Columns) (r : Option Reply) : (w.afterReply r).session = w.session := by
  rcases r with _ | (_ | (_ | _ | _)) <;> rfl

@[simp] theorem Columns.afterReply_tap (w : Columns) (r : Option Reply) : (w.afterReply r).tap = w.tap := by
  rcases r with _ | (_ | (_ | _ | _)) <;> rfl

@[simp] theorem Columns.afterReply_dir (w : Columns) (r : Option Reply) : (w.afterReply r).dir = w.dir := by
  rcases r with _ | (_ | (_ | _ | _)) <;> rfl

/-- Without a transport failure the row stands. -/
theorem Columns.afterReply_of_not_te (w : Columns) {r : Option Reply} (h : ∀ cause, r ≠ some (.error (.te cause))) :
    w.afterReply r = w := by
  rcases r with _ | (_ | (c | _ | _))
  case some.error.te => exact absurd rfl (h c)
  all_goals rfl

/-- R32's row of an instruction; a requested frame runs an operation that may write the carry. -/
def tableRow (i : Instr) : Columns where
  session := writesSession i
  tap := writesTap i
  carry := writesCarry i || isFrame i
  dir := writesDir i

/-- From `s` to `t` only buffer, link, answers, reply and the fields of the row have changed, and events were only
added. -/
structure Confined (w : Columns) (s t : State) : Prop where
  cfg : t.cfg = s.cfg
  requests : t.requests = s.requests
  prov : t.prov = s.prov
  began : t.began = s.began
  turn : t.turn = s.turn
  events : s.events <+: t.events
  session : w.session = false → t.session = s.session
  dir : w.dir = false → t.dir = s.dir
  tap : w.tap = false → t.tap = s.tap
  carry : w.carry = false → t.carryV = s.carryV ∧ t.carryB = s.carryB

/-- What every part keeps, with the two fields some parts write. -/
theorem Kept.confined {w : Columns} {s t : State} (h : Kept s t) (htap : w.tap = false → t.tap = s.tap)
    (hcarry : w.carry = false → t.carryV = s.carryV ∧ t.carryB = s.carryB) : Confined w s t :=
  ⟨h.cfg, h.requests, h.prov, h.began, h.turn, h.events, fun _ => h.session, fun _ => h.dir, htap, hcarry⟩

theorem Confined.refl (w : Columns) (s : State) : Confined w s s :=
  (Kept.refl s).confined (fun _ => rfl) fun _ => ⟨rfl, rfl⟩

theorem Confined.trans {w : Columns} {s t u : State} (h : Confined w s t) (k : Confined w t u) : Confined w s u where
  cfg := k.cfg.trans h.cfg
  requests := k.requests.trans h.requests
  prov := k.prov.trans h.prov
  began := k.began.trans h.began
  turn := k.turn.trans h.turn
  events := h.events.trans k.events
  session hw := (k.session hw).trans (h.session hw)
  dir hw := (k.dir hw).trans (h.dir hw)
  tap hw := (k.tap hw).trans (h.tap hw)
  carry hw := ⟨(k.carry hw).1.trans (h.carry hw).1, (k.carry hw).2.trans (h.carry hw).2⟩

/-- An outcome only widens the row. -/
theorem Confined.afterReply {w : Columns} {s t : State} (h : Confined w s t) (r : Option Reply) :
    Confined (w.afterReply r) s t where
  __ := h
  session hw := h.session (by simpa using hw)
  dir hw := h.dir (by simpa using hw)
  tap hw := h.tap (by simpa using hw)
  carry hw := by
    rcases r with _ | (_ | (_ | _ | _))
    case some.error.te => cases hw
    all_goals exact h.carry hw

/-- Delivering the outcome writes none of the fields. -/
theorem Confined.deliver {w : Columns} {s t : State} (h : Confined w s t) (r : Option Reply) :
    Confined w s { t with reply := r } :=
  ⟨h.cfg, h.requests, h.prov, h.began, h.turn, h.events, h.session, h.dir, h.tap, h.carry⟩

/-- A transport failure writes buffer and carry (41_framing.md R141). -/
theorem Failed.confined {cause : TeCause} {w : Columns} {s t : State} {e : Err} (h : Failed cause s t e) :
    Confined (w.afterReply (some (.error e))) s t := by
  obtain ⟨rfl, -, -, -, htap, hsession, hdir, hcfg, -, hprov, hrequests, hbegan, hturn, hevents⟩ := h
  exact ⟨hcfg, hrequests, hprov, hbegan, hturn, hevents, fun _ => hsession, fun _ => hdir, fun _ => htap, nofun⟩

/-! ## Parts -/

/-- A part of an operation writes only the fields of the row, however it ends. -/
structure RunsWithin {α : Type} (w : Columns) (s : State) (r : Res α) : Prop where
  ok : ∀ a t, r = .ok a t → Confined w s t
  err : ∀ e t, r = .err e t → Confined (w.afterReply (some (.error e))) s t

section
variable {α β : Type} {w : Columns} {s t : State}

theorem RunsWithin.pure (a : α) (h : Confined w s t) : RunsWithin w s (.ok a t) :=
  ⟨fun _ _ h' => by cases h'; exact h, fun _ _ h' => by cases h'⟩

theorem RunsWithin.fail {e : Err} (h : Confined (w.afterReply (some (.error e))) s t) :
    RunsWithin w s (.err e t : Res α) :=
  ⟨fun _ _ h' => (by cases h'), fun _ _ h' => by cases h'; exact h⟩

/-- An error that changes nothing. -/
theorem RunsWithin.refuse (e : Err) : RunsWithin w s (.err e s : Res α) := .fail ((Confined.refl w s).afterReply _)

/-- A change within the row, then a part. -/
theorem RunsWithin.after {r : Res α} (h : Confined w s t) (k : RunsWithin w t r) : RunsWithin w s r :=
  ⟨fun a u hu => h.trans (k.ok a u hu), fun e u hu => (h.afterReply _).trans (k.err e u hu)⟩

theorem RunsWithin.bind {r : Res α} {f : α → State → Res β} (h : RunsWithin w s r)
    (k : ∀ a t, RunsWithin w t (f a t)) : RunsWithin w s (r.bind f) := by
  cases r with
  | ok a t => exact .after (h.ok a t rfl) (k a t)
  | err e t => exact .fail (h.err e t rfl)

/-- A part followed by a change of the state. -/
theorem RunsWithin.bind_pure {r : Res α} {f : α → State → β} {g : α → State → State} (h : RunsWithin w s r)
    (k : ∀ a t, Confined w t (g a t)) : RunsWithin w s (r.bind fun a t => .ok (f a t) (g a t)) :=
  h.bind fun a t => .pure _ (k a t)

/-- Checks change nothing (60_exceptions.md R256). -/
theorem check_runsWithin {errs : List (Option Err)} {k : State → Res α} (h : RunsWithin w s (k s)) :
    RunsWithin w s (check errs s k) := by
  obtain ⟨-, hk⟩ | ⟨e, -, hk⟩ := check_cases errs s k <;> rw [hk]
  · exact h
  · exact .refuse e

end

section
variable {w : Columns}

theorem flushed_confined (s : State) : Confined w s (flushed s) :=
  (flushed_kept s).confined (fun _ => rfl) fun _ => ⟨rfl, rfl⟩

theorem bufAppend_confined (f : List Byte) (s : State) : Confined w s (bufAppend f s) :=
  ⟨rfl, rfl, rfl, rfl, rfl, List.prefix_rfl, fun _ => rfl, fun _ => rfl, fun _ => rfl, fun _ => ⟨rfl, rfl⟩⟩

/-- A call that is made: its event, its answer used up, the link moved. -/
theorem call_confined (e : TxEvent) (l : Link) (s : State) :
    Confined w s { s.popAnswer.record e with link := l } :=
  ⟨rfl, rfl, rfl, rfl, rfl, List.prefix_append _ _, fun _ => rfl, fun _ => rfl, fun _ => rfl, fun _ => ⟨rfl, rfl⟩⟩

theorem delay_confined (s : State) : Confined w s (delay s) :=
  ⟨rfl, rfl, rfl, rfl, rfl, List.prefix_append _ _, fun _ => rfl, fun _ => rfl, fun _ => rfl, fun _ => ⟨rfl, rfl⟩⟩

theorem clearCarry_confined (hc : w.carry = true) (s : State) : Confined w s (clearCarry s) :=
  (clearCarry_kept s).confined (fun _ => rfl) (by simp [hc])

theorem setCarry_confined (hc : w.carry = true) (b : Bool) (s : State) : Confined w s (setCarry b s) :=
  (setCarry_kept b s).confined (fun _ => rfl) (by simp [hc])

theorem tap_confined (ht : w.tap = true) (t : Tap) (s : State) : Confined w s { s with tap := t } :=
  (tap_kept t s).confined (by simp [ht]) fun _ => ⟨rfl, rfl⟩

theorem flushBuf_runsWithin (s : State) : RunsWithin w s (flushBuf s) := by
  obtain ⟨-, h⟩ | ⟨-, -, h⟩ | ⟨e, t, -, -, h, hf⟩ := flushBuf_cases s <;> rw [h]
  · exact .pure _ (.refl w s)
  · exact .pure _ (flushed_confined s)
  · exact .fail hf.confined

theorem queueBytes_runsWithin (f : List Byte) (s : State) : RunsWithin w s (queueBytes f s) := by
  obtain ⟨-, h⟩ | ⟨-, h⟩ | ⟨-, -, -, h⟩ | ⟨e, t, -, -, h, hf⟩ := queueBytes_cases f s <;> rw [h]
  · exact .refuse _
  · exact .pure _ (bufAppend_confined f s)
  · exact .pure _ ((flushed_confined s).trans (bufAppend_confined f _))
  · exact .fail hf.confined

theorem emit_runsWithin (f : Sys2Proof.Frame) (s : State) : RunsWithin w s (emit f s) := queueBytes_runsWithin _ s

theorem txRead_runsWithin (n : Nat) (s : State) : RunsWithin w s (txRead n s) := by
  obtain ⟨bs, -, -, -, h⟩ | ⟨e, t, -, h, hf⟩ | ⟨e, t, -, h, hf⟩ := txRead_cases n s <;> rw [h]
  · exact .pure _ (call_confined _ _ s)
  · exact .fail hf.confined
  · exact .fail hf.confined

theorem txSetPins_runsWithin (v : PinMask) (s : State) : RunsWithin w s (txSetPins v s) := by
  obtain ⟨-, h⟩ | ⟨e, t, -, h, hf⟩ := txSetPins_cases v s <;> rw [h]
  · exact .pure _ (call_confined _ _ s)
  · exact .fail hf.confined

theorem txClose_runsWithin (s : State) : RunsWithin w s (txClose s) := by
  obtain ⟨-, h⟩ | ⟨e, t, -, h, hf⟩ := txClose_cases s <;> rw [h]
  · exact .pure _ (call_confined _ s.link s)
  · exact .fail hf.confined

/-- `TxOpen` itself writes nothing of the block, not even when it fails (42_engine.md R180; log 10). -/
theorem txOpen_runsWithin (vid pid idx : Nat) (dir : PinMask) (freq : Nat) (s : State) :
    RunsWithin w s (txOpen vid pid idx dir freq s) := by
  rw [txOpen]
  split
  · exact .fail ((call_confined _ _ s).afterReply _)
  · exact .pure _ (call_confined _ _ s)

theorem exchange_runsWithin (f : Sys2Proof.Frame) (n : Nat) (s : State) : RunsWithin w s (exchange f n s) :=
  (emit_runsWithin f s).bind fun _ t => (flushBuf_runsWithin t).bind fun _ u => txRead_runsWithin n u

theorem readBits_runsWithin (n : Nat) (s : State) : RunsWithin w s (readBits n s) :=
  (exchange_runsWithin _ _ s).bind_pure fun _ t => .refl w t

theorem readBytes_runsWithin (n : Nat) (s : State) : RunsWithin w s (readBytes n s) :=
  (exchange_runsWithin _ _ s).bind_pure fun _ t => .refl w t

theorem readIf_runsWithin {n : Nat} {k : Nat → State → Res Bits} {s : State} (h : RunsWithin w s (k n s)) :
    RunsWithin w s (readIf n k s) := by
  rw [readIf]
  split
  · exact h
  · exact .pure _ (.refl w s)

theorem readSeq_runsWithin (n : Nat) (s : State) : RunsWithin w s (readSeq n s) :=
  check_runsWithin <| (readIf_runsWithin (readBytes_runsWithin _ s)).bind fun _ t =>
    (readIf_runsWithin (readBits_runsWithin _ t)).bind_pure fun _ u => .refl w u

theorem emitBytes_runsWithin (b : Bits) (s : State) : RunsWithin w s (emitBytes b s) := by
  rw [emitBytes]
  split
  · exact .pure _ (.refl w s)
  · exact emit_runsWithin _ s

theorem emitBits_runsWithin (b : Bits) (s : State) : RunsWithin w s (emitBits b s) := by
  rw [emitBits]
  split
  · exact .pure _ (.refl w s)
  · exact emit_runsWithin _ s

/-! ### Parts that write the carry -/

theorem writeSeq_runsWithin (hc : w.carry = true) (b : Bits) (s : State) : RunsWithin w s (writeSeq b s) :=
  check_runsWithin <| (emitBytes_runsWithin _ s).bind fun _ t =>
    (emitBits_runsWithin _ t).bind_pure fun _ u => setCarry_confined hc _ u

theorem writeTms_runsWithin (hc : w.carry = true) (ev : Bits) (s : State) : RunsWithin w s (writeTms ev s) :=
  check_runsWithin <| (emit_runsWithin _ s).bind_pure fun _ t => clearCarry_confined hc t

theorem sendTms_runsWithin (hc : w.carry = true) (ps : List Bits) (s : State) : RunsWithin w s (sendTms ps s) := by
  induction ps generalizing s with
  | nil => exact .pure _ (.refl w s)
  | cons p ps ih => exact (writeTms_runsWithin hc p s).bind fun _ t => ih t

/-! ### Parts that write the pointer and the carry -/

section
variable (ht : w.tap = true) (hc : w.carry = true)
include ht hc

theorem changeState_runsWithin (t : Tap) (s : State) : RunsWithin w s (changeState t s) := by
  rw [changeState]
  split
  · exact .refuse _
  · exact (sendTms_runsWithin hc _ s).bind_pure fun _ u => tap_confined ht _ u

theorem writeReg_runsWithin (shift update : Tap) (b : Bits) (s : State) :
    RunsWithin w s (writeReg shift update b s) :=
  (changeState_runsWithin ht hc shift s).bind fun _ t =>
    (writeSeq_runsWithin hc b t).bind fun _ u => changeState_runsWithin ht hc update u

theorem readDr_runsWithin (n : Nat) (s : State) : RunsWithin w s (readDr n s) :=
  (changeState_runsWithin ht hc .shdr s).bind fun _ t =>
    (readSeq_runsWithin n t).bind fun _ u => (changeState_runsWithin ht hc .updr u).bind_pure fun _ v => .refl w v

theorem readDrThenIdle_runsWithin (n : Nat) (s : State) : RunsWithin w s (readDrThenIdle n s) :=
  (readDr_runsWithin ht hc n s).bind fun _ t => (changeState_runsWithin ht hc .rti t).bind_pure fun _ u => .refl w u

theorem loadAndWrite_runsWithin (pattern b : Bits) (s : State) : RunsWithin w s (loadAndWrite pattern b s) :=
  (writeReg_runsWithin ht hc _ _ pattern s).bind fun _ t =>
    (writeReg_runsWithin ht hc _ _ b t).bind fun _ u => changeState_runsWithin ht hc .rti u

end

/-! ## Operations -/

/-- The operation ends in a state in which only the fields of the row have changed. -/
def EndsWithin (w : Columns) (s : State) (o : Host.Outcome State Fault Refusal) : Prop :=
  ∀ t, o = .next t → Confined (w.afterReply t.reply) s t

theorem deliver_endsWithin {α : Type} {v : α → Value} {s : State} {r : Res α} (h : RunsWithin w s r) :
    EndsWithin w s (deliver v r) := by
  intro t ht
  obtain ⟨a, u, hr, hd⟩ | ⟨e, u, hr, hd⟩ := deliver_cases v r <;> rw [hd] at ht <;> cases ht
  · exact (h.ok a u hr).deliver _
  · exact (h.err e u hr).deliver _

/-- Checks, then a part, then the delivery: the shape of every operation that needs a session. -/
theorem checked_endsWithin {α : Type} {v : α → Value} {errs : List (Option Err)} {s : State} {k : State → Res α}
    (h : RunsWithin w s (k s)) : EndsWithin w s (deliver v (check errs s k)) :=
  deliver_endsWithin (check_runsWithin h)

theorem execWriteBits_endsWithin (b : Bits) (s : State) : EndsWithin w s (execWriteBits b s) :=
  checked_endsWithin (emit_runsWithin _ s)

theorem execWriteBytes_endsWithin (b : Bits) (s : State) : EndsWithin w s (execWriteBytes b s) :=
  checked_endsWithin (emit_runsWithin _ s)

theorem execWriteTms_endsWithin (hc : w.carry = true) (ev : Bits) (s : State) : EndsWithin w s (execWriteTms ev s) :=
  checked_endsWithin (writeTms_runsWithin hc ev s)

theorem execReadBits_endsWithin (n : Nat) (s : State) : EndsWithin w s (execReadBits n s) :=
  checked_endsWithin (readBits_runsWithin n s)

theorem execReadBytes_endsWithin (n : Nat) (s : State) : EndsWithin w s (execReadBytes n s) :=
  checked_endsWithin (readBytes_runsWithin n s)

theorem execShiftBytes_endsWithin (b : Bits) (s : State) : EndsWithin w s (execShiftBytes b s) :=
  checked_endsWithin ((exchange_runsWithin _ _ s).bind_pure fun _ t => .refl w t)

/-- `open` writes all five columns (42_engine.md R180). -/
theorem execOpenSession_endsWithin (hw : w = ⟨true, true, true, true⟩) (vid pid idx : Nat) (dir : PinMask) (freq : Nat)
    (s : State) : EndsWithin w s (execOpenSession vid pid idx dir freq s) := by
  subst hw
  exact checked_endsWithin <| (txOpen_runsWithin vid pid idx dir freq s).bind_pure fun _ t =>
    ⟨rfl, rfl, rfl, rfl, rfl, List.prefix_rfl, nofun, nofun, nofun, nofun⟩

/-- `close` clears the carry, then closes the session (42_engine.md R181). -/
theorem execClose_endsWithin (hs : w.session = true) (hc : w.carry = true) (s : State) :
    EndsWithin w s (execClose s) :=
  checked_endsWithin <| (flushBuf_runsWithin s).bind fun _ t =>
    (RunsWithin.after (clearCarry_confined hc t) (txClose_runsWithin _)).bind_pure fun _ u =>
      ⟨rfl, rfl, rfl, rfl, rfl, List.prefix_rfl, by simp [hs], fun _ => rfl, fun _ => rfl, fun _ => ⟨rfl, rfl⟩⟩

/-- `reset` (42_engine.md R187): pins and delays write nothing, its TMS frame the carry, its end the pointer. -/
theorem execReset_endsWithin (ht : w.tap = true) (hc : w.carry = true) (s : State) : EndsWithin w s (execReset s) :=
  checked_endsWithin <| (flushBuf_runsWithin s).bind fun _ t => (txSetPins_runsWithin _ t).bind fun _ u =>
    (RunsWithin.after (delay_confined u) (txSetPins_runsWithin _ _)).bind fun _ v =>
      (RunsWithin.after (delay_confined v) (writeTms_runsWithin hc _ _)).bind fun _ x =>
        (flushBuf_runsWithin x).bind_pure fun _ y => tap_confined ht .tlr y

/-! ### TapGraph operations -/

theorem execFindPath_endsWithin (target : Tap) (source : Option Tap) (s : State) :
    EndsWithin w s (execFindPath target source s) := by
  refine deliver_endsWithin ?_
  split
  · exact .pure _ (.refl w s)
  · exact .refuse _

theorem execPathToEvents_endsWithin (path : List Tap) (s : State) : EndsWithin w s (execPathToEvents path s) := by
  refine deliver_endsWithin ?_
  split
  · exact .pure _ (.refl w s)
  · exact .refuse _

end

/-! ### A frame that the host requests runs its operation (30_encoding.md, log 2) -/

section
variable {s : State} (h : s.turn = .block)
include h

theorem exec_wbits_of_block (b : Bits) : exec (.wbits b) s = exec (.writeBits b) s := by
  simp [exec, execWbits, h]

theorem exec_wbytes_of_block (b : Bits) : exec (.wbytes b) s = exec (.writeBytes b) s := by
  simp [exec, execWbytes, h]

theorem exec_wtms_of_block (ev : Bits) (d : Bool) : exec (.wtms ev d) s = exec (.writeTms ev) s := by
  simp [exec, execWtms, h]

theorem exec_rbits_of_block (n : Nat) : exec (.rbits n) s = exec (.readBits n) s := by
  simp [exec, execRbits, h]

theorem exec_rbytes_of_block (n : Nat) : exec (.rbytes n) s = exec (.readBytes n) s := by
  simp [exec, execRbytes, h]

theorem exec_rwbytes_of_block (b : Bits) : exec (.rwbytes b) s = exec (.shiftBytes b) s := by
  simp [exec, execRwbytes, h]

end

/-! ## Every instruction -/

/-- Every instruction the block runs is confined to its row of R32's table. -/
theorem exec_endsWithin_tableRow (i : Instr) (s : State) (h : isFrame i = true → s.turn = .block) :
    EndsWithin (tableRow i) s (exec i s) := by
  cases i with
  | wbits b => rw [exec_wbits_of_block (h rfl)]; exact execWriteBits_endsWithin b s
  | wbytes b => rw [exec_wbytes_of_block (h rfl)]; exact execWriteBytes_endsWithin b s
  | wtms ev d => rw [exec_wtms_of_block (h rfl)]; exact execWriteTms_endsWithin rfl ev s
  | rbits n => rw [exec_rbits_of_block (h rfl)]; exact execReadBits_endsWithin n s
  | rbytes n => rw [exec_rbytes_of_block (h rfl)]; exact execReadBytes_endsWithin n s
  | rwbytes b => rw [exec_rwbytes_of_block (h rfl)]; exact execShiftBytes_endsWithin b s
  | currentState => exact deliver_endsWithin (.pure _ (.refl _ s))
  | gReset => exact deliver_endsWithin (.pure _ (tap_confined rfl _ s))
  | findPath target source => exact execFindPath_endsWithin target source s
  | pathToEvents path => exact execPathToEvents_endsWithin path s
  | applyEvents ev => exact deliver_endsWithin (.pure _ (tap_confined rfl _ s))
  | queue f => exact checked_endsWithin (queueBytes_runsWithin f s)
  | flush => exact checked_endsWithin (flushBuf_runsWithin s)
  | writeBits b => exact execWriteBits_endsWithin b s
  | writeBytes b => exact execWriteBytes_endsWithin b s
  | write b => exact checked_endsWithin (writeSeq_runsWithin rfl b s)
  | writeTms ev => exact execWriteTms_endsWithin rfl ev s
  | readBits n => exact execReadBits_endsWithin n s
  | readBytes n => exact execReadBytes_endsWithin n s
  | read n => exact checked_endsWithin (readSeq_runsWithin n s)
  | shiftBytes b => exact execShiftBytes_endsWithin b s
  | openSession vid pid idx dir freq => exact execOpenSession_endsWithin rfl vid pid idx dir freq s
  | close => exact execClose_endsWithin rfl rfl s
  | changeState t => exact checked_endsWithin (changeState_runsWithin rfl rfl t s)
  | goIdle => exact checked_endsWithin (changeState_runsWithin rfl rfl .rti s)
  | writeIr b => exact checked_endsWithin (writeReg_runsWithin rfl rfl _ _ b s)
  | writeDr b => exact checked_endsWithin (writeReg_runsWithin rfl rfl _ _ b s)
  | readDr n => exact checked_endsWithin (readDr_runsWithin rfl rfl n s)
  | reset => exact execReset_endsWithin rfl rfl s
  | idcode => exact checked_endsWithin (readDrThenIdle_runsWithin rfl rfl 32 s)
  | preload b => exact checked_endsWithin (loadAndWrite_runsWithin rfl rfl _ b s)
  | sample =>
    exact checked_endsWithin ((writeReg_runsWithin rfl rfl _ _ _ s).bind fun _ t => readDrThenIdle_runsWithin rfl rfl _ t)
  | extest b => exact checked_endsWithin (loadAndWrite_runsWithin rfl rfl _ b s)
  | readback => exact checked_endsWithin (readDrThenIdle_runsWithin rfl rfl _ s)

/-- A TapGraph operation writes the pointer and the reply at most: it makes no call and leaves the buffer, the carry and
the link alone (40_tap_fsm.md R115 to R125). -/
theorem exec_tapGraph_writes {i : Instr} {s t : State} (hi : writesBuf i = false) (h : exec i s = .next t) :
    t = { s with tap := t.tap, reply := t.reply } := by
  cases i with
  | currentState => cases h; rfl
  | gReset => cases h; rfl
  | findPath target source =>
    simp only [exec, execFindPath] at h
    split at h <;> cases h <;> rfl
  | pathToEvents path =>
    simp only [exec, execPathToEvents] at h
    split at h <;> cases h <;> rfl
  | applyEvents ev => cases h; rfl
  | _ => cases hi

/-- Settles O47: each instruction is confined to its row, and the rows without the column buf are those of TapGraph. -/
theorem writeAccessTable : Obligations.WriteAccessTable := by
  unfold Obligations.WriteAccessTable
  intro s t i ht hturn
  have row : Confined ((tableRow i).afterReply t.reply) s t := exec_endsWithin_tableRow i s hturn t ht
  refine ⟨row.cfg, row.requests, row.prov, row.began, row.turn, row.events, fun hi => row.session ?_,
    fun hi => row.dir ?_, fun hi => row.tap ?_, fun hi => ?_, fun hi hframe hte => ?_⟩
  · simpa [tableRow] using hi
  · simpa [tableRow] using hi
  · simpa [tableRow] using hi
  · rw [exec_tapGraph_writes hi ht]
    exact ⟨rfl, rfl, rfl, rfl, rfl, rfl⟩
  · rw [Columns.afterReply_of_not_te _ hte] at row
    exact row.carry (by simp [tableRow, hi, hframe])

/-- Settles O1: R30's values are those of `State.reset`. -/
theorem powerOnState : Obligations.PowerOnState :=
  ⟨rfl, rfl, rfl, rfl, rfl, rfl, rfl⟩

end Sys2Proof.Machine

/-! # The length of a frame from its first bytes (spec/30_encoding.md R81)

The opcodes are distinct, so the first byte of a frame tells its kind, and the kind tells how the length is known: 2
bytes, 3 bytes, or 3 bytes and the payload that the length field counts. -/

namespace Sys2Proof

theorem Config.opcodes_nodup {c : Config} (hc : c.wf = true) : c.opcodes.Nodup := by
  simp only [Config.wf, Bool.and_eq_true, decide_eq_true_eq] at hc
  simp only [hc]

theorem Config.maxFrame_le {c : Config} (hc : c.wf = true) : c.maxFrame ≤ 65539 := by
  simp only [Config.wf, Bool.and_eq_true, decide_eq_true_eq] at hc
  simp only [hc]

/-- A payload that fits the buffer fits the 2-byte length field too, so the field holds its count (R71, R83). -/
theorem countOf16_len16_of_wholeBytes {c : Config} {b : Bits} (hc : c.wf = true)
    (hb : wholeBytes (c.maxFrame - 3) b = true) :
    countOf16 (BitVec.ofNat 8 (b.length / 8 - 1)) (BitVec.ofNat 8 ((b.length / 8 - 1) / 256)) = b.length / 8 := by
  have hmax := Config.maxFrame_le hc
  simp only [wholeBytes, Bool.and_eq_true, decide_eq_true_eq] at hb
  exact countOf16_len16 _ (by omega) (by omega)

/-- The first byte of a frame (R72). -/
def Frame.opcode (c : Config) : Frame → Byte
  | .wbits _ => c.opcWbits
  | .wbytes _ => c.opcWbytes
  | .wtms _ _ => c.opcWtms
  | .rbits _ => c.opcRbits
  | .rbytes _ => c.opcRbytes
  | .rwbytes _ => c.opcRwbytes

theorem encodeFrame_eq_opcode_cons (c : Config) (f : Frame) :
    ∃ lo more, encodeFrame c f = f.opcode c :: lo :: more := by
  cases f <;> exact ⟨_, _, rfl⟩

theorem Frame.opcode_mem (c : Config) (f : Frame) : f.opcode c ∈ c.opcodes := by
  cases f <;> simp [Frame.opcode, Config.opcodes]

/-! ## What the opcode tells of the length -/

section
variable {c : Config} {f : Frame} (hc : c.wf = true)
include hc

theorem Frame.size_of_opcRbits (hop : f.opcode c = c.opcRbits) : f.size = 2 := by
  have hd := Config.opcodes_nodup hc
  cases f with
  | rbits => rfl
  | _ => grind [Frame.opcode, Config.opcodes]

theorem Frame.size_of_opcode_threeBytes
    (hop : f.opcode c = c.opcWbits ∨ f.opcode c = c.opcWtms ∨ f.opcode c = c.opcRbytes) : f.size = 3 := by
  have hd := Config.opcodes_nodup hc
  cases f with
  | wbits | wtms | rbytes => rfl
  | _ => grind [Frame.opcode, Config.opcodes]

/-- The frames with a payload have the length field at bytes 1 and 2, and it counts the payload. -/
theorem Frame.size_of_opcode_payload (hf : f.wellFormed c = true)
    (hop : f.opcode c = c.opcWbytes ∨ f.opcode c = c.opcRwbytes) :
    ∃ lo hi payload, encodeFrame c f = f.opcode c :: lo :: hi :: payload ∧ f.size = 3 + countOf16 lo hi := by
  have hd := Config.opcodes_nodup hc
  cases f with
  | wbytes b | rwbytes b =>
    exact ⟨_, _, _, rfl, by rw [countOf16_len16_of_wholeBytes hc hf]; rfl⟩
  | _ => grind [Frame.opcode, Config.opcodes]

end

/-- Settles O7: the first byte is the kind's opcode, and each class of opcodes has its length. -/
theorem frameLengthFromFirstBytes : Obligations.FrameLengthFromFirstBytes := by
  unfold Obligations.FrameLengthFromFirstBytes
  intro c f hc hf
  obtain ⟨lo, more, henc⟩ := encodeFrame_eq_opcode_cons c f
  rw [encodeFrame_length]
  refine ⟨f.opcode c, lo, more, henc, Frame.size_of_opcRbits hc, Frame.size_of_opcode_threeBytes hc, fun hop => ?_,
    f.opcode_mem c⟩
  obtain ⟨lo', hi, payload, henc', hsize⟩ := Frame.size_of_opcode_payload hc hf hop
  obtain ⟨rfl, rfl⟩ : lo = lo' ∧ more = hi :: payload := by simpa [henc] using henc'
  exact ⟨hi, payload, rfl, hsize⟩

end Sys2Proof

/-! # The operations on the pointer (spec/40_tap_fsm.md R115, R116, R125)

`apply_events` is a fold, so its meaning on a longer sequence is its meaning after the first edge. -/

namespace Sys2Proof.Machine

theorem exec_applyEvents (ev : Bits) (s : State) :
    exec (.applyEvents ev) s = returns .none { s with tap := applyEvents s.tap ev } := rfl

/-- Settles O12: each operation is one write of the pointer at most. -/
theorem pointerOperations : Obligations.PointerOperations := by
  unfold Obligations.PointerOperations
  refine ⟨fun _ => rfl, fun _ => rfl, fun _ => rfl, fun s e ev => ?_, fun s ev => ⟨_, exec_applyEvents ev s⟩⟩
  simp only [exec_applyEvents, applyEvents_cons]

end Sys2Proof.Machine

/-! # Entry values and stable states (spec/40_tap_fsm.md R112, R114, R117)

Everything follows from one fact of the table, `event_of_edge`: an edge into a state carries the state's entry value. -/

namespace Sys2Proof.Machine

theorem entry_applyEvents_concat (s : Tap) (ev : Bits) (e : Bool) : entry (applyEvents s (ev ++ [e])) = e := by
  rw [applyEvents_append]
  exact (event_of_edge rfl).symm

theorem stable_iff (s : Tap) : stable s = true ↔ nxt s (entry s) = s := by
  simp [stable]

/-- The stable states are the states with a self-loop: a self-loop carries the entry value. -/
theorem stable_iff_selfLoop (s : Tap) : stable s = true ↔ ∃ e, nxt s e = s := by
  rw [stable_iff]
  constructor
  · exact fun h => ⟨entry s, h⟩
  · rintro ⟨e, h⟩
    rwa [← event_of_edge h]

/-- Settles O8: the codes, the edges and the two lists are the tables'; the rest follows from `event_of_edge`. -/
theorem entryValuesAndStableStates : Obligations.EntryValuesAndStableStates := by
  unfold Obligations.EntryValuesAndStableStates
  refine ⟨by decide, fun _ _ _ => event_of_edge, fun t => ?_, entry_applyEvents_concat,
    fun s => ⟨stable_iff s, ?_, stable_iff_selfLoop s⟩⟩
  · cases t <;> decide
  · cases s <;> decide

end Sys2Proof.Machine

/-! # The events of a path (spec/40_tap_fsm.md R123, R124)

`pathToEvents` is given its equation for a path that begins with an edge and for one that does not; the two halves of
the obligation follow by induction on the path. -/

namespace Sys2Proof.Machine

@[simp] theorem pathToEvents_nil : pathToEvents [] = none := rfl

@[simp] theorem pathToEvents_singleton (t : Tap) : pathToEvents [t] = some [] := rfl

/-- A path that begins with an edge has the events of the rest after that edge's. -/
theorem pathToEvents_cons_of_edge {s d : Tap} {e : Bool} (h : nxt s e = d) (p : List Tap) :
    pathToEvents (s :: d :: p) = (pathToEvents (d :: p)).map (e :: ·) := by
  obtain ⟨hedge, -⟩ | ⟨-, hnone⟩ := edgesTo_cases s d
  · rw [← event_of_edge h] at hedge
    simp [pathToEvents, pathEdges, hedge, apply_ite]
  · exact absurd h (hnone e)

/-- A path that begins with a pair that no edge joins has too few events (R124). -/
theorem pathToEvents_cons_of_no_edge {s d : Tap} (h : ∀ e, nxt s e ≠ d) (p : List Tap) :
    pathToEvents (s :: d :: p) = none := by
  obtain ⟨-, hedge⟩ | ⟨hnone, -⟩ := edgesTo_cases s d
  · exact absurd hedge (h _)
  · have := pathEdges_length_lt d p
    rw [pathToEvents, if_neg]
    simp only [pathEdges, hnone, List.nil_append, List.length_cons]
    omega

theorem pathToEvents_cons_cons {s d : Tap} {p : List Tap} {ev : Bits} :
    pathToEvents (s :: d :: p) = some ev ↔
      ∃ e rest, ev = e :: rest ∧ nxt s e = d ∧ pathToEvents (d :: p) = some rest := by
  by_cases h : ∃ e, nxt s e = d
  · obtain ⟨e, rfl⟩ := h
    rw [pathToEvents_cons_of_edge rfl, Option.map_eq_some_iff]
    constructor
    · rintro ⟨rest, hrest, rfl⟩
      exact ⟨e, rest, rfl, rfl, hrest⟩
    · rintro ⟨e', rest, rfl, he, hrest⟩
      exact ⟨rest, hrest, by rw [event_of_edge he, ← event_of_edge rfl]⟩
  · push Not at h
    simp [pathToEvents_cons_of_no_edge h, h]

/-- One event for each consecutive pair, and each the TMS value of the pair's edge. -/
def FollowsEdges (p : List Tap) (ev : Bits) : Prop :=
  p.length = ev.length + 1 ∧ ∀ k a d e, p[k]? = some a → p[k + 1]? = some d → ev[k]? = some e → nxt a e = d

theorem followsEdges_singleton {t : Tap} {ev : Bits} : FollowsEdges [t] ev ↔ ev = [] := by
  constructor
  · rintro ⟨hlen, -⟩
    simpa using hlen
  · rintro rfl
    exact ⟨rfl, by simp⟩

theorem followsEdges_cons_cons {s d : Tap} {p : List Tap} {ev : Bits} :
    FollowsEdges (s :: d :: p) ev ↔ ∃ e rest, ev = e :: rest ∧ nxt s e = d ∧ FollowsEdges (d :: p) rest := by
  constructor
  · rintro ⟨hlen, hedge⟩
    cases ev with
    | nil => simp at hlen
    | cons e rest =>
      exact ⟨e, rest, rfl, hedge 0 s d e rfl rfl rfl, by simpa using hlen, fun k => hedge (k + 1)⟩
  · rintro ⟨e, rest, rfl, he, hlen, hedge⟩
    refine ⟨by simpa using hlen, fun k => ?_⟩
    cases k with
    | zero => simpa using he
    | succ k => exact hedge k

/-- `path_to_events` answers exactly the sequences that follow the path's edges (R123). -/
theorem pathToEvents_eq_some_iff {p : List Tap} {ev : Bits} : pathToEvents p = some ev ↔ FollowsEdges p ev := by
  induction p generalizing ev with
  | nil => simp [FollowsEdges]
  | cons s p ih =>
    cases p with
    | nil => simp [followsEdges_singleton, eq_comm]
    | cons d p => simp only [pathToEvents_cons_cons, followsEdges_cons_cons, ih]

theorem pathToEvents_length {p : List Tap} {ev : Bits} (h : pathToEvents p = some ev) : p.length = ev.length + 1 := by
  obtain ⟨hlen, -⟩ := pathToEvents_eq_some_iff.1 h
  exact hlen

/-- A pair that no edge joins, anywhere in the path, makes it invalid (R124). -/
theorem pathToEvents_eq_none_of_no_edge {p : List Tap} {k : Nat} {a d : Tap} (ha : p[k]? = some a)
    (hd : p[k + 1]? = some d) (h : ∀ e, nxt a e ≠ d) : pathToEvents p = none := by
  rw [Option.eq_none_iff_forall_ne_some]
  intro ev hev
  obtain ⟨hlen, hedge⟩ := pathToEvents_eq_some_iff.1 hev
  obtain ⟨hk, -⟩ := List.getElem?_eq_some_iff.1 hd
  exact h _ (hedge k a d _ ha hd (List.getElem?_eq_getElem (by omega)))

/-- Every non-empty path along edges has its events. -/
theorem exists_pathToEvents {p : List Tap} (hne : p ≠ [])
    (h : ∀ k a d, p[k]? = some a → p[k + 1]? = some d → ∃ e, nxt a e = d) :
    ∃ ev, pathToEvents p = some ev := by
  induction p with
  | nil => exact absurd rfl hne
  | cons s p ih =>
    cases p with
    | nil => exact ⟨[], rfl⟩
    | cons d p =>
      obtain ⟨e, he⟩ := h 0 s d rfl rfl
      obtain ⟨ev, hev⟩ := ih (by simp) fun k => h (k + 1)
      exact ⟨e :: ev, by rw [pathToEvents_cons_of_edge he, hev]; rfl⟩

theorem exec_pathToEvents_of_some {p : List Tap} {ev : Bits} (h : pathToEvents p = some ev) (s : State) :
    exec (.pathToEvents p) s = returns (.bits ev) s := by
  simp [exec, execPathToEvents, h, deliver, returns]

theorem exec_pathToEvents_of_none {p : List Tap} (h : pathToEvents p = none) (s : State) :
    exec (.pathToEvents p) s = refuses (.pie (.invalidPath p)) s := by
  simp [exec, execPathToEvents, h, deliver, refuses]

theorem exec_pathToEvents_eq_returns_iff {p : List Tap} {ev : Bits} {s : State} :
    exec (.pathToEvents p) s = returns (.bits ev) s ↔ pathToEvents p = some ev := by
  refine ⟨fun h => ?_, fun h => exec_pathToEvents_of_some h s⟩
  cases hp : pathToEvents p with
  | none => simp [exec_pathToEvents_of_none hp, refuses, returns] at h
  | some ev' => simpa [exec_pathToEvents_of_some hp, returns] using h

/-- Settles O11: the operation's answer is `pathToEvents`, which follows the edges. -/
theorem pathEventsFollowEdges : Obligations.PathEventsFollowEdges := by
  unfold Obligations.PathEventsFollowEdges
  refine ⟨fun s p ev => exec_pathToEvents_eq_returns_iff.trans pathToEvents_eq_some_iff,
    fun s p => ⟨?_, fun hne h => ?_⟩⟩
  · rintro (rfl | ⟨k, a, d, ha, hd, h⟩)
    · exact exec_pathToEvents_of_none pathToEvents_nil s
    · exact exec_pathToEvents_of_none (pathToEvents_eq_none_of_no_edge ha hd h) s
  · obtain ⟨ev, hev⟩ := exists_pathToEvents hne h
    exact ⟨ev, exec_pathToEvents_of_some hev s⟩

end Sys2Proof.Machine

/-! # The path search (spec/40_tap_fsm.md R118 to R122)

What the search returns is a simple path to the target, by induction on the recursion of `search`. That it is shortest
and alone so is argued over `distance`, the number of events from state to state: each edge brings the target at most
one event nearer and, away from the target, exactly one of the two edges does. The states passed on the way by those
edges are all different, so pruning does not cut it. -/

namespace Sys2Proof.Machine

/-! ## The recursion -/

@[simp] theorem shorter_none_left (q : Option (List Tap)) : shorter none q = q := by
  cases q <;> rfl

theorem eq_or_eq_of_shorter {b q : Option (List Tap)} {p : List Tap} (h : shorter b q = some p) :
    b = some p ∨ q = some p := by
  cases b with
  | none => exact .inr (by simpa using h)
  | some b => cases q with
    | none => exact .inl h
    | some q =>
      rw [shorter] at h
      split at h
      · exact .inr h
      · exact .inl h

/-- The candidate kept is no longer than either. -/
theorem exists_shorter {b q : Option (List Tap)} {p : List Tap} (h : b = some p ∨ q = some p) :
    ∃ r, shorter b q = some r ∧ r.length ≤ p.length := by
  cases b with
  | none => exact ⟨p, by simpa using h, le_rfl⟩
  | some b => cases q with
    | none => exact ⟨p, by simpa [shorter] using h, le_rfl⟩
    | some q =>
      rw [shorter]
      split
      · exact ⟨q, rfl, by grind⟩
      · exact ⟨b, rfl, by grind⟩

/-- One pass of the loop of R119: what the search finds along an edge that is not pruned. -/
def searchAlong (fuel : Nat) (s t : Tap) (above : List Tap) (e : Bool) : Option (List Tap) :=
  if nxt s e = s then none else if nxt s e ∈ above then none else search fuel (nxt s e) t (above ++ [s])

theorem search_self (fuel : Nat) (t : Tap) (above : List Tap) : search (fuel + 1) t t above = some (above ++ [t]) := by
  rw [search, if_pos rfl]

theorem search_of_ne {s t : Tap} (h : s ≠ t) (fuel : Nat) (above : List Tap) :
    search (fuel + 1) s t above = shorter (searchAlong fuel s t above false) (searchAlong fuel s t above true) := by
  simp [search, h, searchAlong]

theorem searchAlong_eq_some_iff {fuel : Nat} {s t : Tap} {above p : List Tap} {e : Bool} :
    searchAlong fuel s t above e = some p ↔
      nxt s e ≠ s ∧ nxt s e ∉ above ∧ search fuel (nxt s e) t (above ++ [s]) = some p := by
  simp [searchAlong]

/-! ## A path found is simple -/

/-- A path found ends here, or goes on along an edge to a state that is not on the path (R119). -/
theorem search_succ_cases {fuel : Nat} {s t : Tap} {above p : List Tap} (h : search (fuel + 1) s t above = some p) :
    (s = t ∧ p = above ++ [s]) ∨
      ∃ e, nxt s e ≠ s ∧ nxt s e ∉ above ∧ search fuel (nxt s e) t (above ++ [s]) = some p := by
  by_cases hst : s = t
  · subst hst
    rw [search_self] at h
    exact .inl ⟨rfl, (Option.some.inj h).symm⟩
  · rw [search_of_ne hst] at h
    simp only [← searchAlong_eq_some_iff]
    right
    obtain h | h := eq_or_eq_of_shorter h
    · exact ⟨false, h⟩
    · exact ⟨true, h⟩

/-- The search extends the path so far, from the state it is at to the target, and repeats no state. -/
theorem search_simple {fuel : Nat} {s t : Tap} {above p : List Tap} (h : search fuel s t above = some p)
    (hnodup : (above ++ [s]).Nodup) : above ++ [s] <+: p ∧ p.getLast? = some t ∧ p.Nodup := by
  induction fuel generalizing s above with
  | zero => cases h
  | succ fuel ih =>
    obtain ⟨rfl, rfl⟩ | ⟨e, hloop, hnew, h⟩ := search_succ_cases h
    · exact ⟨List.prefix_rfl, by simp, hnodup⟩
    · have hnodup' : (above ++ [s] ++ [nxt s e]).Nodup := by
        rw [← List.concat_eq_append, List.nodup_concat]
        simp [hloop, hnew, hnodup]
      obtain ⟨hextends, hlast, hp⟩ := ih h hnodup'
      exact ⟨(List.prefix_append _ _).trans hextends, hlast, hp⟩

theorem findPath_simple {source target : Tap} {p : List Tap} (h : findPath target source = some p) :
    p.head? = some source ∧ p.getLast? = some target ∧ p.Nodup := by
  obtain ⟨⟨rest, rfl⟩, hlast, hp⟩ := search_simple h (by simp)
  exact ⟨rfl, hlast, hp⟩

theorem findPath_self (t : Tap) : findPath t t = some [t] := by
  simp [findPath, search]

/-! ## The distances -/

/-- The number of events to each state, in the order of `allTaps` (R126, R127). -/
def distancesFrom : Tap → List Nat
  | .tlr => [0, 1, 2, 3, 4, 4, 5, 6, 5, 3, 4, 5, 5, 6, 7, 6]
  | .rti => [3, 0, 1, 2, 3, 3, 4, 5, 4, 2, 3, 4, 4, 5, 6, 5]
  | .seldr => [2, 3, 0, 1, 2, 2, 3, 4, 3, 1, 2, 3, 3, 4, 5, 4]
  | .capdr => [5, 3, 3, 0, 1, 1, 2, 3, 2, 4, 5, 6, 6, 7, 8, 7]
  | .shdr => [5, 3, 3, 4, 0, 1, 2, 3, 2, 4, 5, 6, 6, 7, 8, 7]
  | .ex1dr => [4, 2, 2, 3, 3, 0, 1, 2, 1, 3, 4, 5, 5, 6, 7, 6]
  | .pdr => [5, 3, 3, 4, 2, 3, 0, 1, 2, 4, 5, 6, 6, 7, 8, 7]
  | .ex2dr => [4, 2, 2, 3, 1, 2, 3, 0, 1, 3, 4, 5, 5, 6, 7, 6]
  | .updr => [3, 1, 1, 2, 3, 3, 4, 5, 0, 2, 3, 4, 4, 5, 6, 5]
  | .selir => [1, 2, 3, 4, 5, 5, 6, 7, 6, 0, 1, 2, 2, 3, 4, 3]
  | .capir => [5, 3, 3, 4, 5, 5, 6, 7, 6, 4, 0, 1, 1, 2, 3, 2]
  | .shir => [5, 3, 3, 4, 5, 5, 6, 7, 6, 4, 5, 0, 1, 2, 3, 2]
  | .ex1ir => [4, 2, 2, 3, 4, 4, 5, 6, 5, 3, 4, 3, 0, 1, 2, 1]
  | .pir => [5, 3, 3, 4, 5, 5, 6, 7, 6, 4, 5, 2, 3, 0, 1, 2]
  | .ex2ir => [4, 2, 2, 3, 4, 4, 5, 6, 5, 3, 4, 1, 2, 3, 0, 1]
  | .upir => [3, 1, 1, 2, 3, 3, 4, 5, 4, 2, 3, 4, 4, 5, 6, 0]

/-- The number of events from `s` to `t`. -/
def distance (s t : Tap) : Nat := (distancesFrom s).getD (allTaps.idxOf t) 0

@[simp] theorem distance_self (t : Tap) : distance t t = 0 := by
  cases t <;> rfl

theorem distance_le_succ (s t : Tap) (e : Bool) : distance s t ≤ distance (nxt s e) t + 1 := by
  cases s <;> cases t <;> cases e <;> decide

theorem exists_nearer {s t : Tap} (h : s ≠ t) : ∃ e, distance (nxt s e) t + 1 = distance s t := by
  revert h
  cases s <;> cases t <;> decide

/-- The two edges out of a state never both bring the target nearer, so no pair has a tie (R129). -/
theorem nearer_unique {s t : Tap} {e e' : Bool} (h : distance (nxt s e) t < distance s t)
    (h' : distance (nxt s e') t < distance s t) : e = e' := by
  revert e e'
  cases s <;> cases t <;> decide

theorem distance_le_length {s t : Tap} {ev : Bits} (h : applyEvents s ev = t) : distance s t ≤ ev.length := by
  induction ev generalizing s with
  | nil =>
    obtain rfl : s = t := h
    simp
  | cons e ev ih => exact (distance_le_succ s t e).trans (Nat.succ_le_succ (ih h))

/-- A shortest event sequence begins with an edge that brings the target nearer. -/
theorem nearer_of_length_le {s t : Tap} {e : Bool} {ev : Bits} (h : applyEvents s (e :: ev) = t)
    (hlen : (e :: ev).length ≤ distance s t) : distance (nxt s e) t < distance s t :=
  calc distance (nxt s e) t ≤ ev.length := distance_le_length h
    _ < distance s t := hlen

/-- Two event sequences between the same states that are both shortest are one. -/
theorem eq_of_length_le_distance {s t : Tap} {a b : Bits} (ha : applyEvents s a = t) (hb : applyEvents s b = t)
    (hla : a.length ≤ distance s t) (hlb : b.length ≤ distance s t) : a = b := by
  induction a generalizing s b with
  | nil =>
    obtain rfl : s = t := ha
    simpa [eq_comm] using hlb
  | cons e a ih => cases b with
    | nil =>
      obtain rfl : s = t := hb
      simp at hla
    | cons e' b =>
      obtain rfl := nearer_unique (nearer_of_length_le ha hla) (nearer_of_length_le hb hlb)
      have hle := distance_le_succ s t e
      rw [List.length_cons] at hla hlb
      rw [ih ha hb (by omega) (by omega)]

/-! ## A path found is shortest -/

/-- If the states above are all farther from the target, the search finds a path that goes on for no more events than
the distance (R120). -/
theorem search_length_le {fuel : Nat} {s t : Tap} {above : List Tap}
    (hfar : ∀ u ∈ above, distance s t < distance u t) (hfuel : distance s t < fuel) :
    ∃ p, search fuel s t above = some p ∧ p.length ≤ above.length + distance s t + 1 := by
  induction fuel generalizing s above with
  | zero => exact absurd hfuel (Nat.not_lt_zero _)
  | succ fuel ih =>
    by_cases hst : s = t
    · subst hst
      exact ⟨_, search_self fuel s above, by simp⟩
    · obtain ⟨e, he⟩ := exists_nearer hst
      have hfar' : ∀ u ∈ above ++ [s], distance (nxt s e) t < distance u t := by
        simp only [List.mem_append, List.mem_singleton]
        rintro u (hu | rfl)
        · have := hfar u hu
          omega
        · omega
      obtain ⟨q, hq, hlen⟩ := ih hfar' (by omega)
      have hloop : nxt s e ≠ s := fun h => by
        rw [h] at he
        omega
      have hnew : nxt s e ∉ above := fun h => by
        have := hfar _ h
        omega
      have halong : searchAlong fuel s t above e = some q := searchAlong_eq_some_iff.2 ⟨hloop, hnew, hq⟩
      obtain ⟨p, hp, hpq⟩ : ∃ p, search (fuel + 1) s t above = some p ∧ p.length ≤ q.length := by
        rw [search_of_ne hst]
        cases e with
        | false => exact exists_shorter (.inl halong)
        | true => exact exists_shorter (.inr halong)
      refine ⟨p, hp, ?_⟩
      rw [List.length_append, List.length_singleton] at hlen
      omega

theorem findPath_length_le {source target : Tap} {p : List Tap} (h : findPath target source = some p)
    (hdist : distance source target < 17) : p.length ≤ distance source target + 1 := by
  obtain ⟨q, hq, hlen⟩ := search_length_le (above := []) (by simp) hdist
  obtain rfl : q = p := Option.some.inj (hq.symm.trans h)
  simpa using hlen

/-! ## The operation -/

theorem route_eq_ok {source target : Tap} {ev : Bits} (h : route source target = .ok ev) :
    ∃ p, findPath target source = some p ∧ pathToEvents p = some ev := by
  rw [route] at h
  split at h
  · cases h
  · next p hp =>
    split at h
    · cases h
    · next ev' hev =>
      cases h
      exact ⟨p, hp, hev⟩

theorem exec_findPath_of_some {target : Tap} {given : Option Tap} {s : State} {p : List Tap}
    (h : findPath target (given.getD s.tap) = some p) : exec (.findPath target given) s = returns (.path p) s := by
  simp [exec, execFindPath, h, deliver, returns]

/-- Settles O10: there is a route of at most 8 events, along the path the search finds. It has no more events than the
distance, and it is the only such sequence. -/
theorem findPathReturnsShortest : Obligations.FindPathReturnsShortest := by
  unfold Obligations.FindPathReturnsShortest
  rintro s target source given rfl
  obtain ⟨ev, hroute, hends, hlen, -⟩ := route_ok (given.getD s.tap) target
  obtain ⟨p, hp, hev⟩ := route_eq_ok hroute
  obtain ⟨hhead, hlast, hnodup⟩ := findPath_simple hp
  have hsize : p.length = ev.length + 1 := pathToEvents_length hev
  have hdist : ev.length ≤ distance (given.getD s.tap) target := by
    have := distance_le_length hends
    have := findPath_length_le hp (by omega)
    omega
  refine ⟨p, ev, exec_findPath_of_some hp, hev, hhead, hlast, hnodup, by omega, fun hself => ?_, hends,
    fun other hother => ?_⟩
  · obtain rfl : p = [target] := by simpa [hself, findPath_self] using hp.symm
    exact ⟨rfl, by simpa using hev.symm⟩
  · by_cases hlonger : ev.length < other.length
    · exact .inl hlonger
    · exact .inr (eq_of_length_le_distance hother hends (by omega) hdist)

end Sys2Proof.Machine

/-! # The framing engine (spec/41_framing.md)

What an operation's checks decide, said once for every list of checks; then the exact outcome of `QUEUE`, `FLUSH` and a
read exchange, with the state a failed call leaves; and what the parts of an operation do not look at. Each statement
about a framing operation is then its checks followed by one of these. -/

namespace Sys2Proof

theorem Config.maxFrame_ge {c : Config} (hc : c.wf = true) : 4 ≤ c.maxFrame := by
  simp only [Config.wf, Bool.and_eq_true, decide_eq_true_eq] at hc
  simp only [hc]

theorem Config.writeBitsMax_ge {c : Config} (hc : c.wf = true) : 7 ≤ c.writeBitsMax := by
  simp only [Config.wf, Bool.and_eq_true, decide_eq_true_eq] at hc
  simp only [hc]

theorem Config.readBitsMax_ge {c : Config} (hc : c.wf = true) : 7 ≤ c.readBitsMax := by
  simp only [Config.wf, Bool.and_eq_true, decide_eq_true_eq] at hc
  simp only [hc]

theorem Config.tmsMaxEvents_le {c : Config} (hc : c.wf = true) : c.tmsMaxEvents ≤ 7 := by
  simp only [Config.wf, Bool.and_eq_true, decide_eq_true_eq] at hc
  simp only [hc]

end Sys2Proof

namespace Sys2Proof.Machine

/-! ## Checks -/

section
variable {α : Type} {v : α → Value} {es : List (Option Err)} {s : State} {k : State → Res α}

/-- The first check that fails is the outcome (60_exceptions.md R255, R256). -/
theorem checked_refuses {e : Err} (h : es.findSome? id = some e) : deliver v (check es s k) = refuses e s := by
  rw [check, h]
  rfl

theorem checked_runs (h : es.findSome? id = none) : deliver v (check es s k) = deliver v (k s) := by
  rw [check, h]

/-- In a closed session an operation that checks the session first is refused (R140). -/
theorem checked_closed (h : s.session = .closed) :
    deliver v (check (sessionErr s :: es) s k) = refuses (.cme .sessionClosed) s :=
  checked_refuses (by simp [sessionErr, h])

end

theorem carryErr_of_free {s : State} (h : s.carryFree) : carryErr s = none := (carryErr_eq_none s).mpr h

theorem carryErr_of_pending {s : State} (h : ¬ s.carryFree) : carryErr s = some (.pie .carryPending) := by
  simpa [carryErr, State.carryFree] using h

section
variable {c : Config} {b : Bits} {n : Nat}

theorem payloadErr_of_large (h : c.maxFrame < 3 + n) : payloadErr c n = some (.pie (.frameTooLarge (3 + n))) := if_pos h

theorem bitCountErr_of_bad (h : b.length < 1 ∨ c.writeBitsMax < b.length) :
    bitCountErr c b = some (.pie (.bitCount b.length)) := if_pos h

theorem byteAlignErr_of_bad (h : b.length = 0 ∨ b.length % 8 ≠ 0) :
    byteAlignErr b = some (.pie (.byteAlign b.length)) := if_pos h

theorem tmsErr_of_bad (h : b.length < 1 ∨ c.tmsMaxEvents < b.length) :
    tmsErr c b = some (.pie (.tmsLength b.length)) := if_pos h

theorem readBitsErr_of_bad (h : n < 1 ∨ c.readBitsMax < n) :
    readBitsErr c n = some (.pie (.readBitsBound n)) := if_pos h

theorem readBytesErr_of_bad (h : n < 1 ∨ c.readBytesMax < n) :
    readBytesErr c n = some (.pie (.readBytesBound n)) := if_pos h

theorem readErr_of_large (h : c.readBytesMax < n / 8) :
    readErr c n = some (.pie (.readBytesBound (n / 8))) := if_pos h

end

theorem Res.bind_pure_self {α : Type} (r : Res α) : (r.bind fun a t => .ok a t) = r := by
  cases r <;> rfl

/-! ## `QUEUE` and `FLUSH`, exactly -/

/-- What a failed call leaves: its event, no buffer, no carry, and some link (R141). -/
def State.afterFailure (e : TxEvent) (l : Link) (s : State) : State :=
  { s with events := s.events ++ [e], inp := s.inp.tail, buf := [], carryV := false, carryB := false, link := l }

theorem deliver_afterFailure {α : Type} (v : α → Value) (cause : TeCause) (e : TxEvent) (l : Link) (s : State) :
    deliver v (.err (.te cause) (s.afterFailure e l)) = failsWith cause e s l := rfl

/-- `FLUSH` of a buffer that is not empty: one call of all of it, which completes or fails (R144). -/
theorem flushBuf_eq {s : State} (h : s.buf ≠ []) :
    flushBuf s =
      if s.callFails then
        .err (.te .writeFailed)
          (s.afterFailure (.write s.buf false) (s.popAnswer.record (.write s.buf false)).lostLink)
      else .ok () s.sent := by
  rw [flushBuf, if_pos (List.length_pos_iff.mpr h), memRead_all, txWrite]
  split <;> rfl

/-- `QUEUE(f)` of a frame within the bound: appended, after a flush that completes or fails where it would exceed the
bound (R142). -/
theorem queueBytes_eq {f : List Byte} {s : State} (hf : f.length ≤ s.cfg.maxFrame) :
    queueBytes f s =
      if s.fits f.length ∨ s.callFails = false then .ok () (s.queued f)
      else .err (.te .writeFailed)
        (s.afterFailure (.write s.buf false) (s.popAnswer.record (.write s.buf false)).lostLink) := by
  rw [queueBytes, (frameErr_eq_none _ _).mpr hf, check_none, check_nil, State.queued]
  by_cases hfits : s.fits f.length
  · rw [if_neg (by omega), if_pos (.inl hfits), if_pos hfits]
    rfl
  · have hbuf : s.buf ≠ [] := by
      intro hnil
      simp [State.fits, hnil, hf] at hfits
    rw [if_pos (by omega), if_neg hfits, flushBuf_eq hbuf]
    cases s.callFails <;> simp [hfits, State.sent, bufAppend]

theorem queueBytes_queued {f : List Byte} {s : State} (hf : f.length ≤ s.cfg.maxFrame)
    (h : s.fits f.length ∨ s.callFails = false) : queueBytes f s = .ok () (s.queued f) := by
  rw [queueBytes_eq hf, if_pos h]

theorem queueBytes_fails {f : List Byte} {s : State} (hf : f.length ≤ s.cfg.maxFrame) (h : ¬ s.fits f.length)
    (hcall : s.callFails = true) :
    ∃ l, queueBytes f s = .err (.te .writeFailed) (s.afterFailure (.write s.buf false) l) :=
  ⟨_, by rw [queueBytes_eq hf, if_neg (by simp [h, hcall])]⟩

theorem queued_of_fits {f : List Byte} {s : State} (h : s.fits f.length) : s.queued f = bufAppend f s := if_pos h

/-- A queued frame is the end of the buffer. -/
theorem queued_buf (f : List Byte) (s : State) : ∃ before, (s.queued f).buf = before ++ f := by
  rw [State.queued]
  split
  · exact ⟨s.buf, rfl⟩
  · exact ⟨[], rfl⟩

@[simp] theorem queued_cfg (f : List Byte) (s : State) : (s.queued f).cfg = s.cfg := by
  rw [State.queued]
  split <;> rfl

theorem queueBytes_ok_buf {f : List Byte} {s t : State} (h : queueBytes f s = .ok () t) :
    ∃ before, t.buf = before ++ f := by
  obtain ⟨-, hq⟩ | ⟨-, hq⟩ | ⟨-, -, -, hq⟩ | ⟨e, u, -, -, hq, -⟩ := queueBytes_cases f s <;> rw [hq] at h <;> cases h
  · exact ⟨s.buf, rfl⟩
  · exact ⟨[], rfl⟩

/-- An operation that, its checks passed, queues a frame within the bound and then does `post`. -/
theorem queues_of_exec {i : Instr} {s : State} {f : List Byte} {post : State → State}
    (hf : f.length ≤ s.cfg.maxFrame)
    (h : exec i s = deliver noValue ((queueBytes f s).bind fun _ t => .ok () (post t))) : Queues i s f post := by
  refine ⟨fun hq => ?_, fun hfits hcall => ?_⟩
  · rw [h, queueBytes_queued hf hq]
    rfl
  · obtain ⟨l, hl⟩ := queueBytes_fails hf hfits hcall
    exact ⟨l, by rw [h, hl, bind_err, deliver_afterFailure]⟩

theorem queues_id_of_exec {i : Instr} {s : State} {f : List Byte} (hf : f.length ≤ s.cfg.maxFrame)
    (h : exec i s = deliver noValue (queueBytes f s)) : Queues i s f id :=
  queues_of_exec hf (h.trans (congrArg _ (Res.bind_pure_self _).symm))

/-! ## A read exchange, exactly -/

theorem txRead_fails {n : Nat} {s : State} (h : s.callFails = true) :
    ∃ l, txRead n s = .err (.te .readFailed) (s.afterFailure (.read n none) l) :=
  ⟨_, by rw [txRead, if_pos h]; rfl⟩

/-- The bytes a `TxRead` takes: those the transport answers, else the reference link's oldest (43_link_model.md R227). -/
abbrev State.reads (n : Nat) (r : List Byte) (s : State) : Prop :=
  s.answer = .bytes r ∨ (s.answer = .served ∧ r = (s.link.settle s.cfg).out.take n)

theorem callFails_of_reads {n : Nat} {r : List Byte} {s : State} (h : s.reads n r) : s.callFails = false := by
  obtain h | ⟨h, -⟩ := h <;> rw [State.callFails, h] <;> rfl

theorem readAnswer_of_reads {n : Nat} {r : List Byte} {s : State} (h : s.reads n r) :
    readAnswer n (s.link.settle s.cfg) s.answer = r := by
  obtain h | ⟨h, rfl⟩ := h <;> rw [h] <;> rfl

/-- A `TxRead(n)` that is answered: n bytes are its result, any other number a short read (20_memory.md R51). -/
theorem txRead_of_reads {n : Nat} {r : List Byte} {s : State} (h : s.reads n r) :
    txRead n s =
      if r.length = n then
        .ok r { s with
          events := s.events ++ [.read n (some r)], inp := s.inp.tail
          link := ((s.link.settle s.cfg).takeOut n).2 }
      else
        .err (.te .shortRead) (s.afterFailure (.read n (some r))
          ({ s with link := ((s.link.settle s.cfg).takeOut n).2 }.popAnswer.record (.read n (some r))).lostLink) := by
  simp only [txRead, callFails_of_reads h, readAnswer_of_reads h, Bool.false_eq_true, if_false]
  split <;> rfl

/-- `exchange` once its frame is queued: a flush, then a read (20_memory.md R55). -/
theorem exchange_of_queued {F : Frame} {n : Nat} {s : State} (hF : F.size ≤ s.cfg.maxFrame)
    (hq : s.fits (encodeFrame s.cfg F).length ∨ s.callFails = false) :
    exchange F n s = (flushBuf (s.queued (encodeFrame s.cfg F))).bind fun _ t => txRead n t := by
  rw [exchange, emit, queueBytes_queued (by rwa [encodeFrame_length]) hq, bind_ok]

theorem queued_frame_ne_nil (F : Frame) (s : State) : (s.queued (encodeFrame s.cfg F)).buf ≠ [] := by
  obtain ⟨before, h⟩ := queued_buf (encodeFrame s.cfg F) s
  simp [h, encodeFrame_ne_nil]

theorem sent_queued_cfg (f : List Byte) (s : State) : (s.queued f).sent.cfg = s.cfg := queued_cfg f s

/-- An operation that, its checks passed, exchanges a frame within the bound for `n` bytes and makes them its result by
`g`. -/
theorem exchanges_of_exec {i : Instr} {s : State} {F : Frame} {n : Nat} {v : Bits → Value}
    {g : Config → List Byte → Bits} (hF : F.size ≤ s.cfg.maxFrame)
    (h : exec i s = deliver v ((exchange F n s).bind fun r t => .ok (g t.cfg r) t)) :
    Exchanges i s (encodeFrame s.cfg F) n fun r => v (g s.cfg r) := by
  refine ⟨fun hfits hcall => ?_, fun hq => ⟨fun hcall => ?_, fun hcall u hu => ?_⟩⟩
  · obtain ⟨l, hl⟩ := queueBytes_fails (by rwa [encodeFrame_length]) hfits hcall
    exact ⟨l, by rw [h, exchange, emit, hl]; rfl⟩
  · exact ⟨_, by rw [h, exchange_of_queued hF hq, flushBuf_eq (queued_frame_ne_nil F s), if_pos hcall]; rfl⟩
  · have hread : exchange F n s = txRead n u := by
      rw [exchange_of_queued hF hq, flushBuf_eq (queued_frame_ne_nil F s), if_neg (by simp [hcall]), bind_ok, hu]
    rw [h, hread]
    refine ⟨fun hfail => ?_, fun r hr => ?_⟩
    · obtain ⟨l, hl⟩ := txRead_fails (n := n) hfail
      exact ⟨l, by rw [hl]; rfl⟩
    · have hcfg : u.cfg = s.cfg := hu ▸ sent_queued_cfg _ s
      refine ⟨fun hlen => ?_, fun hlen => ?_⟩
      · exact ⟨_, by rw [txRead_of_reads hr, if_pos hlen, ← hcfg]; rfl⟩
      · exact ⟨_, by rw [txRead_of_reads hr, if_neg hlen]; rfl⟩

/-! ## What the parts do not look at -/

/-- The outcome with another `reply` in its state. -/
def Res.withReply {α : Type} (x : Option Reply) : Res α → Res α
  | .ok a s => .ok a { s with reply := x }
  | .err e s => .err e { s with reply := x }

/-- A part that does not look at the last outcome and leaves it alone (60_exceptions.md R258; log 11). -/
def ReplyBlind {α : Type} (k : State → Res α) : Prop := ∀ x s, k { s with reply := x } = (k s).withReply x

@[simp] theorem deliver_withReply {α : Type} (v : α → Value) (x : Option Reply) (r : Res α) :
    deliver v (r.withReply x) = deliver v r := by
  cases r <;> rfl

/-- Such a part has the same outcome after any other. -/
theorem ReplyBlind.deliver {α : Type} {k : State → Res α} (hk : ReplyBlind k) (v : α → Value) (x : Option Reply)
    (s : State) : deliver v (k { s with reply := x }) = deliver v (k s) := by
  rw [hk, deliver_withReply]

theorem ReplyBlind.bind {α β : Type} {k : State → Res α} {f : α → State → Res β} (hk : ReplyBlind k)
    (hf : ∀ a, ReplyBlind (f a)) : ReplyBlind fun s => (k s).bind f := by
  intro x s
  simp only [hk x s]
  cases k s with
  | ok a t => exact hf a x t
  | err e t => rfl

theorem ReplyBlind.ite {α : Type} {c : State → Prop} [DecidablePred c] {k k' : State → Res α}
    (hc : ∀ x s, c { s with reply := x } ↔ c s) (hk : ReplyBlind k) (hk' : ReplyBlind k') :
    ReplyBlind fun s => if c s then k s else k' s := by
  intro x s
  simp only [hc x s]
  split
  · exact hk x s
  · exact hk' x s

theorem txWrite_replyBlind (bs : List Byte) : ReplyBlind (txWrite bs) :=
  .ite (c := fun s => s.callFails = true) (fun _ _ => Iff.rfl) (fun _ _ => rfl) fun _ _ => rfl

theorem flushBuf_replyBlind : ReplyBlind flushBuf :=
  .ite (fun _ _ => Iff.rfl)
    (.bind (fun x s => txWrite_replyBlind (memRead 0 s.buf.length s) x s) fun _ _ _ => rfl) fun _ _ => rfl

/-- Checks that do not look at the last outcome. -/
theorem ReplyBlind.check {α : Type} {es : State → List (Option Err)} {k : State → Res α}
    (hes : ∀ x s, es { s with reply := x } = es s) (hk : ReplyBlind k) : ReplyBlind fun s => check (es s) s k := by
  intro x s
  simp only [hes x s]
  rw [Machine.check, Machine.check]
  cases (es s).findSome? id with
  | none => exact hk x s
  | some e => rfl

theorem queueBytes_replyBlind (f : List Byte) : ReplyBlind (queueBytes f) :=
  .check (es := fun s => [frameErr s.cfg f.length]) (fun _ _ => rfl) <|
    .bind (.ite (fun _ _ => Iff.rfl) flushBuf_replyBlind fun _ _ => rfl) fun _ _ _ => rfl

theorem emit_replyBlind (F : Frame) : ReplyBlind (emit F) :=
  fun x s => queueBytes_replyBlind (encodeFrame s.cfg F) x s

theorem txRead_replyBlind (n : Nat) : ReplyBlind (txRead n) := by
  refine .ite (c := fun s => s.callFails = true) (fun _ _ => Iff.rfl) (fun _ _ => rfl) ?_
  exact .ite (c := fun s => (readAnswer n (s.link.settle s.cfg) s.answer).length = n) (fun _ _ => Iff.rfl)
    (fun _ _ => rfl) fun _ _ => rfl

theorem exchange_replyBlind (F : Frame) (n : Nat) : ReplyBlind (exchange F n) :=
  (emit_replyBlind F).bind fun _ => flushBuf_replyBlind.bind fun _ => txRead_replyBlind n

theorem readBits_replyBlind (n : Nat) : ReplyBlind (readBits n) :=
  (exchange_replyBlind _ _).bind fun _ _ _ => rfl

/-- An operation is its first part, then, if that ended with a result, the rest from its state (30_encoding.md R89). -/
theorem deliver_bind {α β : Type} {v : β → Value} {w : α → Value} {r : Res α} {f : α → State → Res β}
    {k : State → Host.Outcome State Fault Refusal}
    (h : ∀ a t, r = .ok a t → deliver v (f a t) = k { t with reply := some (.ok (w a)) }) :
    deliver v (r.bind f) = andThen (deliver w r) k := by
  cases r with
  | ok a t => exact h a t rfl
  | err e t => rfl

/-! ## Queueing and flushing -/

/-- Settles O13: the check of the frame's size, then `QUEUE` exactly. -/
theorem queueAppendsFrame : Obligations.QueueAppendsFrame := by
  unfold Obligations.QueueAppendsFrame
  intro s f
  refine ⟨fun hclosed => checked_closed hclosed, fun hopen => ⟨fun hlarge => ?_, fun hf => ?_⟩⟩
  · have : queueBytes f s = .err (.pie (.frameTooLarge f.length)) s := by simp [queueBytes, frameErr, hlarge]
    exact (checked_runs (by simp [hopen])).trans (by rw [this]; rfl)
  · exact queues_id_of_exec hf (checked_runs (by simp [hopen]))

/-- Settles O14: an empty buffer makes no call; else `FLUSH` exactly. -/
theorem flushSendsWholeBuffer : Obligations.FlushSendsWholeBuffer := by
  unfold Obligations.FlushSendsWholeBuffer
  intro s
  refine ⟨fun hclosed => checked_closed hclosed, fun hopen => ?_⟩
  have hexec : exec .flush s = deliver noValue (flushBuf s) := checked_runs (by simp [hopen])
  rw [hexec]
  refine ⟨fun hempty => ?_, fun hbuf hcall => ?_, fun hbuf hcall => ?_⟩
  · rw [flushBuf, hempty]
    rfl
  · rw [flushBuf_eq hbuf, if_neg (by simp [hcall])]
    rfl
  · exact ⟨_, by rw [flushBuf_eq hbuf, if_pos hcall]; rfl⟩

theorem exec_queue_of_room {f : List Byte} {s : State} (hopen : s.session = .opened)
    (hf : f.length ≤ s.cfg.maxFrame) (h : s.fits f.length ∨ s.callFails = false) :
    exec (.queue f) s = returns .none (s.queued f) :=
  (checked_runs (by simp [hopen])).trans (by rw [queueBytes_queued hf h]; rfl)

/-- After an operation that returned, a frame that fits is appended. -/
theorem andThen_queue_of_fits {f : List Byte} {s : State} (hopen : s.session = .opened) (h : s.fits f.length) :
    andThen (returns .none s) (exec (.queue f)) = returns .none (bufAppend f s) := by
  have hfits : { s with reply := some (.ok .none) }.fits f.length := h
  have hf : f.length ≤ s.cfg.maxFrame := Nat.le_trans (Nat.le_add_left _ _) h
  exact (exec_queue_of_room (s := { s with reply := some (.ok .none) }) hopen hf (.inl hfits)).trans
    (by rw [queued_of_fits hfits]; rfl)

/-- Frames that fit together are appended in order, with no call (R165). -/
theorem foldl_queue_of_fits (fs : List (List Byte)) {s : State} (hopen : s.session = .opened)
    (h : s.fits fs.flatten.length) :
    fs.foldl (fun o f => andThen o (exec (.queue f))) (returns .none s) =
      returns .none (bufAppend fs.flatten s) := by
  induction fs generalizing s with
  | nil => simp [bufAppend]
  | cons f fs ih =>
    rw [List.flatten_cons] at h ⊢
    rw [State.fits, List.length_append] at h
    have hfits : s.fits f.length := by rw [State.fits]; omega
    have hrest : (bufAppend f s).fits fs.flatten.length := by
      rw [State.fits, bufAppend_buf, List.length_append, bufAppend_cfg]
      omega
    rw [List.foldl_cons, andThen_queue_of_fits hopen hfits, ih (s := bufAppend f s) hopen hrest]
    simp [bufAppend]

/-- Settles O25: the frames that fit by `foldl_queue_of_fits`; the first that does not is queued after one call. -/
theorem framesCoalesce : Obligations.FramesCoalesce := by
  unfold Obligations.FramesCoalesce
  refine ⟨fun fs s hopen h => foldl_queue_of_fits fs hopen h, fun f s hopen hf hfits hcall => ?_⟩
  rw [exec_queue_of_room hopen hf (.inr hcall), State.queued, if_neg hfits]

/-! ## Operations of one frame -/

/-- Settles O15: its checks, then the queueing of one `WBITS` frame. -/
theorem writeBitsQueuesFrame : Obligations.WriteBitsQueuesFrame := by
  unfold Obligations.WriteBitsQueuesFrame
  intro s b hwf
  have hsize := Config.maxFrame_ge hwf
  refine ⟨fun hclosed => checked_closed hclosed, fun hopen => ⟨fun hcount => ?_, fun hmin hmax =>
    ⟨fun hpending => ?_, fun hfree => ?_⟩⟩⟩
  · exact checked_refuses (by simp [hopen, bitCountErr_of_bad hcount])
  · exact checked_refuses (by simp [hopen, hmin, hmax, carryErr_of_pending hpending])
  · exact queues_id_of_exec (by simp; omega) (checked_runs (by simp [hopen, hmin, hmax, carryErr_of_free hfree]))

/-- Settles O16: its checks, then the queueing of one `WBYTES` frame. -/
theorem writeBytesQueuesFrame : Obligations.WriteBytesQueuesFrame := by
  unfold Obligations.WriteBytesQueuesFrame
  intro s b
  refine ⟨fun hclosed => checked_closed hclosed, fun hopen => ⟨fun hbad => ?_, fun hne hwhole => ?_⟩⟩
  · exact checked_refuses (by simp [hopen, byteAlignErr_of_bad hbad])
  have halign := (byteAlignErr_eq_none b).mpr ⟨hne, hwhole⟩
  refine ⟨fun hlarge => ?_, fun hmax => ⟨fun hpending => ?_, fun hfree => ?_⟩⟩
  · exact checked_refuses (by simp [hopen, halign, payloadErr_of_large hlarge])
  · exact checked_refuses (by simp [hopen, halign, hmax, carryErr_of_pending hpending])
  · have hsize : (encodeFrame s.cfg (.wbytes b)).length ≤ s.cfg.maxFrame := by rwa [encodeFrame_length]
    exact queues_id_of_exec hsize (checked_runs (by simp [hopen, halign, hmax, carryErr_of_free hfree]))

/-- Settles O19: its checks, then the queueing of one `WTMS` frame, after which the carry is cleared. -/
theorem writeTmsConsumesCarry : Obligations.WriteTmsConsumesCarry := by
  unfold Obligations.WriteTmsConsumesCarry
  intro s ev hwf
  have hsize := Config.maxFrame_ge hwf
  refine ⟨fun hclosed => checked_closed hclosed, fun hopen => ?_⟩
  have hexec : exec (.writeTms ev) s = deliver noValue (writeTms ev s) := checked_runs (by simp [hopen])
  refine ⟨fun hcount => ?_, fun hmin hmax => ?_⟩
  · exact hexec.trans (checked_refuses (by simp [tmsErr_of_bad hcount]))
  · exact queues_of_exec (by simp; omega) (hexec.trans (checked_runs (by simp [hmin, hmax])))

/-! ## Exchanges -/

/-- A read-bits response by its justification, as one expression (R157). -/
theorem justified_eq (c : Config) (n : Nat) (r : Byte) :
    justified c n r = (List.range n).map fun i => r.getLsbD (if c.readBitsJustify = .msb then 8 - n + i else i) := by
  rw [justified]
  cases c.readBitsJustify <;> simp [unpack8]

/-- Settles O20: its checks, then the exchange of one `RBITS` frame for one byte. -/
theorem readBitsExchangesOneByte : Obligations.ReadBitsExchangesOneByte := by
  unfold Obligations.ReadBitsExchangesOneByte
  intro s n hwf
  refine ⟨fun hclosed => checked_closed hclosed, fun hopen => ⟨fun hbound => ?_, fun hmin hmax =>
    ⟨fun hpending => ?_, fun hfree => ?_⟩⟩⟩
  · exact checked_refuses (by simp [hopen, readBitsErr_of_bad hbound])
  · exact checked_refuses (by simp [hopen, hmin, hmax, carryErr_of_pending hpending])
  · have hsize : (Frame.rbits n).size ≤ s.cfg.maxFrame := Nat.le_trans (by simp [Frame.size]) (Config.maxFrame_ge hwf)
    simp only [← justified_eq]
    exact exchanges_of_exec (g := fun c r => justified c n (r.headD 0#8)) hsize
      (checked_runs (by simp [hopen, hmin, hmax, carryErr_of_free hfree]))

/-- Settles O21: its checks, then the exchange of one `RBYTES` frame for n bytes. -/
theorem readBytesExchangesBytes : Obligations.ReadBytesExchangesBytes := by
  unfold Obligations.ReadBytesExchangesBytes
  intro s n hwf
  refine ⟨fun hclosed => checked_closed hclosed, fun hopen => ⟨fun hbound => ?_, fun hmin hmax =>
    ⟨fun hpending => ?_, fun hfree => ?_⟩⟩⟩
  · exact checked_refuses (by simp [hopen, readBytesErr_of_bad hbound])
  · exact checked_refuses (by simp [hopen, hmin, hmax, carryErr_of_pending hpending])
  · have hsize : (Frame.rbytes n).size ≤ s.cfg.maxFrame := Nat.le_trans (by simp [Frame.size]) (Config.maxFrame_ge hwf)
    exact exchanges_of_exec (g := fun _ r => unpackBytes r) hsize
      (checked_runs (by simp [hopen, hmin, hmax, carryErr_of_free hfree]))

/-- Settles O24: its checks, then the exchange of one `RWBYTES` frame for as many bytes as it sends. -/
theorem shiftBytesExchangesBytes : Obligations.ShiftBytesExchangesBytes := by
  unfold Obligations.ShiftBytesExchangesBytes
  intro s b
  refine ⟨fun hclosed => checked_closed hclosed, fun hopen => ⟨fun hbad => ?_, fun hne hwhole => ?_⟩⟩
  · exact checked_refuses (by simp [hopen, byteAlignErr_of_bad hbad])
  have halign := (byteAlignErr_eq_none b).mpr ⟨hne, hwhole⟩
  refine ⟨fun hlarge => ?_, fun hmax => ⟨fun hpending => ?_, fun hfree => ?_⟩⟩
  · exact checked_refuses (by simp [hopen, halign, payloadErr_of_large hlarge])
  · exact checked_refuses (by simp [hopen, halign, hmax, carryErr_of_pending hpending])
  · exact exchanges_of_exec (F := .rwbytes b) (g := fun _ r => unpackBytes r) hmax
      (checked_runs (by simp [hopen, halign, hmax, carryErr_of_free hfree]))

/-! ## `read` and its parts -/

/-- An operation's second part runs in the session of the first, with the carry as it was. -/
structure SameSession (s t : State) : Prop where
  cfg : t.cfg = s.cfg
  session : t.session = s.session
  carryFree : t.carryFree ↔ s.carryFree

theorem Confined.sameSession {w : Columns} {s t : State} (h : Confined w s t) (hs : w.session = false)
    (hc : w.carry = false) : SameSession s t :=
  ⟨h.cfg, h.session hs, by rw [State.carryFree, h.cfg, (h.carry hc).1]⟩

/-- A part of a `read` is the operation of that part, or nothing (R161). -/
theorem deliver_readIf {n : Nat} {k : Nat → State → Res Bits} {i : Instr} {s : State}
    (h : 0 < n → exec i s = deliver Value.bits (k n s)) :
    deliver Value.bits (readIf n k s) = if 0 < n then exec i s else returns (.bits []) s := by
  rw [readIf]
  split
  · next hpos => exact (h hpos).symm
  · rfl

theorem deliver_readIf_readBytes {n : Nat} {s : State} (hopen : s.session = .opened) (hfree : s.carryFree)
    (hmax : n ≤ s.cfg.readBytesMax) :
    deliver Value.bits (readIf n readBytes s) = if 0 < n then exec (.readBytes n) s else returns (.bits []) s :=
  deliver_readIf fun hpos =>
    have hmin : 1 ≤ n := hpos
    checked_runs (by simp [hopen, hmin, hmax, carryErr_of_free hfree])

theorem deliver_readIf_readBits {n : Nat} {s : State} (hopen : s.session = .opened) (hfree : s.carryFree)
    (hmax : n ≤ s.cfg.readBitsMax) :
    deliver Value.bits (readIf n readBits s) = if 0 < n then exec (.readBits n) s else returns (.bits []) s :=
  deliver_readIf fun hpos =>
    have hmin : 1 ≤ n := hpos
    checked_runs (by simp [hopen, hmin, hmax, carryErr_of_free hfree])

theorem readIf_replyBlind {k : Nat → State → Res Bits} (n : Nat) (hk : ReplyBlind (k n)) : ReplyBlind (readIf n k) :=
  .ite (c := fun _ => 0 < n) (fun _ _ => Iff.rfl) hk fun _ _ => rfl

/-- The end of `read` puts its two results together, whatever was the last outcome. -/
theorem readTail_replyBlind (n : Nat) (bytes : Bits) :
    ReplyBlind fun s => (readIf n readBits s).bind fun b s => .ok (bytes ++ b) s :=
  (readIf_replyBlind n (readBits_replyBlind n)).bind fun _ _ _ => rfl

theorem deliver_readTail {n : Nat} {s : State} (bytes : Bits) (hopen : s.session = .opened) (hfree : s.carryFree)
    (hmax : n ≤ s.cfg.readBitsMax) :
    deliver Value.bits ((readIf n readBits s).bind fun b s => .ok (bytes ++ b) s) =
      andThen (if 0 < n then exec (.readBits n) s else returns (.bits []) s) fun s₂ =>
        returns (.bits (bytes ++ replyBits s₂)) s₂ := by
  rw [← deliver_readIf_readBits hopen hfree hmax]
  exact deliver_bind fun _ _ _ => rfl

/-- Settles O22: its checks; then each part of `READ` is the operation of that part, in the session the part before it
left. -/
theorem readIsItsParts : Obligations.ReadIsItsParts := by
  unfold Obligations.ReadIsItsParts
  intro s n hwf
  refine ⟨fun hclosed => checked_closed hclosed, fun hopen => ?_⟩
  have hexec : exec (.read n) s = deliver Value.bits (readSeq n s) := checked_runs (by simp [hopen])
  refine ⟨fun hlarge => ?_, fun hmax => ⟨fun hpending => ?_, fun hfree => ?_⟩⟩
  · exact hexec.trans (checked_refuses (by simp [readErr_of_large hlarge]))
  · exact hexec.trans (checked_refuses (by simp [hmax, carryErr_of_pending hpending]))
  · rw [hexec, readSeq, checked_runs (by simp [hmax, carryErr_of_free hfree]),
      ← deliver_readIf_readBytes hopen hfree hmax]
    refine deliver_bind fun bytes t ht => ?_
    have hst : SameSession s t :=
      ((readIf_runsWithin (w := tableRow (.readBytes n)) (readBytes_runsWithin _ s)).ok _ _ ht).sameSession rfl rfl
    have hbits : n % 8 ≤ t.cfg.readBitsMax := by
      have := Config.readBitsMax_ge hwf
      rw [hst.cfg]
      omega
    exact ((readTail_replyBlind _ bytes).deliver _ _ t).symm.trans
      (deliver_readTail bytes (hst.session.trans hopen) (hst.carryFree.mpr hfree) hbits)

/-! ## `write` and its parts -/

theorem bytePart_sentBits (b : Bits) : bytePart (sentBits b) = b.take (8 * ((b.length - 1) / 8)) := by
  rw [bytePart, sentBits, List.take_take, List.length_take]
  congr 1
  omega

theorem bitPart_sentBits (b : Bits) :
    bitPart (sentBits b) = (b.take (b.length - 1)).drop (8 * ((b.length - 1) / 8)) := by
  rw [bitPart, sentBits, List.length_take, Nat.min_eq_left (Nat.sub_le _ _)]

theorem bytePart_sentBits_length (b : Bits) : (bytePart (sentBits b)).length = 8 * ((b.length - 1) / 8) := by
  rw [bytePart_sentBits, List.length_take]
  omega

theorem bitPart_sentBits_length (b : Bits) : (bitPart (sentBits b)).length = (b.length - 1) % 8 := by
  rw [bitPart_sentBits, List.length_drop, List.length_take]
  omega

theorem bytePart_sentBits_eq_nil (b : Bits) : bytePart (sentBits b) = [] ↔ ¬ 0 < (b.length - 1) / 8 := by
  rw [← List.length_eq_zero_iff, bytePart_sentBits_length]
  omega

theorem bitPart_sentBits_eq_nil (b : Bits) : bitPart (sentBits b) = [] ↔ ¬ 0 < (b.length - 1) % 8 := by
  rw [← List.length_eq_zero_iff, bitPart_sentBits_length]
  omega

/-- The byte part of a `write` is `write_bytes`, or nothing (R151). -/
theorem deliver_emitBytes_sentBits {b : Bits} {s : State} (hopen : s.session = .opened) (hfree : s.carryFree)
    (hmax : 0 < (b.length - 1) / 8 → 3 + (b.length - 1) / 8 ≤ s.cfg.maxFrame) :
    deliver noValue (emitBytes (bytePart (sentBits b)) s) =
      if 0 < (b.length - 1) / 8 then exec (.writeBytes (b.take (8 * ((b.length - 1) / 8)))) s
      else returns .none s := by
  have hlen := bytePart_sentBits_length b
  rw [emitBytes, ← bytePart_sentBits]
  simp only [bytePart_sentBits_eq_nil, ite_not]
  split
  · next hpos =>
    have halign : byteAlignErr (bytePart (sentBits b)) = none := (byteAlignErr_eq_none _).mpr (by omega)
    have hsize : payloadErr s.cfg ((bytePart (sentBits b)).length / 8) = none :=
      (payloadErr_eq_none _ _).mpr (by omega)
    exact (checked_runs (by simp [hopen, halign, hsize, carryErr_of_free hfree])).symm
  · rfl

/-- The bit part of a `write` is `write_bits`, or nothing (R151). -/
theorem deliver_emitBits_sentBits {b : Bits} {s : State} (hopen : s.session = .opened) (hfree : s.carryFree)
    (hmax : 7 ≤ s.cfg.writeBitsMax) :
    deliver noValue (emitBits (bitPart (sentBits b)) s) =
      if 0 < (b.length - 1) % 8 then exec (.writeBits ((b.take (b.length - 1)).drop (8 * ((b.length - 1) / 8)))) s
      else returns .none s := by
  have hlen := bitPart_sentBits_length b
  rw [emitBits, ← bitPart_sentBits]
  simp only [bitPart_sentBits_eq_nil, ite_not]
  split
  · next hpos =>
    have hcount : bitCountErr s.cfg (bitPart (sentBits b)) = none := (bitCountErr_eq_none _ _).mpr (by omega)
    exact (checked_runs (by simp [hopen, hcount, carryErr_of_free hfree])).symm
  · rfl

theorem emitBits_replyBlind (b : Bits) : ReplyBlind (emitBits b) :=
  .ite (c := fun _ => b = []) (fun _ _ => Iff.rfl) (fun _ _ => rfl) (emit_replyBlind _)

/-- The end of `write`: the residual, and the last bit deferred. -/
theorem writeTail_replyBlind (b : Bits) (last : Bool) :
    ReplyBlind fun s => (emitBits b s).bind fun _ s => .ok () (setCarry last s) :=
  (emitBits_replyBlind b).bind fun _ _ _ => rfl

theorem deliver_writeTail {b : Bits} {s : State} (hopen : s.session = .opened) (hfree : s.carryFree)
    (hmax : 7 ≤ s.cfg.writeBitsMax) :
    deliver noValue ((emitBits (bitPart (sentBits b)) s).bind fun _ s => .ok () (setCarry (lastBit b) s)) =
      andThen
        (if 0 < (b.length - 1) % 8 then exec (.writeBits ((b.take (b.length - 1)).drop (8 * ((b.length - 1) / 8)))) s
        else returns .none s)
        fun s₂ => returns .none { s₂ with carryV := true, carryB := b.getLastD false } := by
  rw [← deliver_emitBits_sentBits hopen hfree hmax]
  exact deliver_bind fun _ _ _ => rfl

/-- Settles O17: its checks; then each part of `WRITE` is the operation of that part, in the session the part before it
left. -/
theorem writeIsItsParts : Obligations.WriteIsItsParts := by
  unfold Obligations.WriteIsItsParts
  intro s b hwf
  have hexec (hopen : s.session = .opened) : exec (.write b) s = deliver noValue (writeSeq b s) :=
    checked_runs (by simp [hopen])
  refine ⟨fun hclosed => checked_closed hclosed, fun hopen hnil => ?_, fun hopen hne hbytes hlarge => ?_,
    fun hopen hne hmax => ?_⟩
  · exact (hexec hopen).trans (checked_refuses (by simp [writeErr, hnil]))
  · have hwrite : writeErr s.cfg b = some (.pie (.frameTooLarge (3 + (b.length - 1) / 8))) := by
      rw [writeErr, if_neg (by simpa using hne), if_pos hbytes, payloadErr_of_large hlarge]
    exact (hexec hopen).trans (checked_refuses (by simp [hwrite]))
  have hwrite := (writeErr_eq_none s.cfg b).mpr ⟨by simpa using hne, hmax⟩
  refine ⟨fun hpending => ?_, fun hfree => ?_⟩
  · exact (hexec hopen).trans (checked_refuses (by simp [hwrite, carryErr_of_pending hpending]))
  · rw [hexec hopen, writeSeq, checked_runs (by simp [hwrite, carryErr_of_free hfree]),
      ← deliver_emitBytes_sentBits hopen hfree hmax]
    refine deliver_bind fun _ t ht => ?_
    have hst : SameSession s t :=
      ((emitBytes_runsWithin (w := tableRow (.writeBytes b)) _ s).ok _ _ ht).sameSession rfl rfl
    have hbits : 7 ≤ t.cfg.writeBitsMax := hst.cfg ▸ Config.writeBitsMax_ge hwf
    exact ((writeTail_replyBlind _ (lastBit b)).deliver _ _ t).symm.trans
      (deliver_writeTail (hst.session.trans hopen) (hst.carryFree.mpr hfree) hbits)

/-! ## The deferred bit -/

/-- An operation that ended with a result passed its checks and ran to its end. -/
theorem checked_returned {α : Type} {v : α → Value} {es : List (Option Err)} {s t : State} {k : State → Res α} {x : Value}
    (h : deliver v (check es s k) = .next t) (hreply : t.reply = some (.ok x)) :
    ∃ a u, k s = .ok a u ∧ t = { u with reply := some (.ok (v a)) } := by
  obtain ⟨-, hk⟩ | ⟨e, -, hk⟩ := check_cases es s k <;> rw [hk] at h
  · obtain ⟨a, u, hu, hd⟩ | ⟨e, u, hu, hd⟩ := deliver_cases v (k s) <;> rw [hd] at h <;> cases h
    · exact ⟨a, u, hu, rfl⟩
    · cases hreply
  · cases h
    cases hreply

/-- A `WRITE` that ended with a result has left its last bit as the carry (R151). -/
theorem writeSeq_carry {b : Bits} {s t : State} (h : writeSeq b s = .ok () t) :
    b ≠ [] ∧ t.carryV = true ∧ t.carryB = lastBit b := by
  obtain ⟨hpass, hk⟩ | ⟨e, -, hk⟩ := check_cases [writeErr s.cfg b, carryErr s] s fun s =>
    (emitBytes (bytePart (sentBits b)) s).bind fun _ s =>
      (emitBits (bitPart (sentBits b)) s).bind fun _ s => .ok () (setCarry (lastBit b) s)
  · have hwrite : writeErr s.cfg b = none := hpass _ (by simp)
    have hlen := ((writeErr_eq_none _ _).mp hwrite).1
    rw [writeSeq, hk, bind_eq_ok] at h
    obtain ⟨_, u, -, hu⟩ := h
    rw [bind_eq_ok] at hu
    obtain ⟨_, w, -, hw⟩ := hu
    cases hw
    exact ⟨by simpa using hlen, rfl, rfl⟩
  · rw [writeSeq, hk] at h
    cases h

/-- A `WRITE_TMS` that ended with a result has left the payload of its frame as the last byte queued (R154). -/
theorem writeTms_lastByte {ev : Bits} {s t : State} (h : writeTms ev s = .ok () t) :
    ev.length ≤ s.cfg.tmsMaxEvents ∧ t.carryV = false ∧
      t.buf.getLast? = some (pack8 ev ||| (if tdiSlot s then 0x80#8 else 0x00#8)) := by
  obtain ⟨hpass, hk⟩ | ⟨e, -, hk⟩ := check_cases [tmsErr s.cfg ev] s fun s =>
    (emit (.wtms ev (tdiSlot s)) s).bind fun _ s => .ok () (clearCarry s)
  · have htms : tmsErr s.cfg ev = none := hpass _ (by simp)
    rw [writeTms, hk, bind_eq_ok] at h
    obtain ⟨_, u, hu, ht⟩ := h
    cases ht
    obtain ⟨before, hbuf⟩ := queueBytes_ok_buf hu
    exact ⟨((tmsErr_eq_none _ _).mp htms).2, rfl, by simp [hbuf, encodeFrame]⟩
  · rw [writeTms, hk] at h
    cases h

/-- Bit 7 of a `WTMS` payload is its TDI slot: at most seven events stand below it (30_encoding.md R75). -/
theorem wtmsPayload_bit7 {ev : Bits} (d : Bool) (h : ev.length ≤ 7) :
    (pack8 ev ||| (if d then 0x80#8 else 0x00#8)).getLsbD 7 = d := by
  have hnone : ev.getD 7 false = false := List.getD_eq_default _ _ h
  rw [BitVec.getLsbD_or, pack8_getLsbD ev 7 (by decide), hnone]
  cases d <;> rfl

theorem getLast?_eq_lastBit {b : Bits} (h : b ≠ []) : b.getLast? = some (lastBit b) := by
  simp [lastBit, List.getLastD_eq_getLast?, List.getLast?_eq_some_getLast h]

/-- Settles O26: the write leaves its last bit as the carry, which is what the TMS frame has in its TDI slot. -/
theorem carryReachesExitFrame : Obligations.CarryReachesExitFrame := by
  unfold Obligations.CarryReachesExitFrame
  intro s s₁ s₂ b ev hwf hwrite hreply₁ htms hreply₂
  obtain ⟨_, u, hu, rfl⟩ := checked_returned hwrite hreply₁
  obtain ⟨_, w, hw, rfl⟩ := checked_returned htms hreply₂
  obtain ⟨hne, hv, hb⟩ := writeSeq_carry hu
  obtain ⟨hev, hclear, hlast⟩ := writeTms_lastByte hw
  have hcfg : u.cfg = s.cfg := ((writeSeq_runsWithin (w := tableRow (.write b)) rfl b s).ok _ _ hu).cfg
  have hseven : ev.length ≤ 7 := Nat.le_trans hev (hcfg ▸ Config.tmsMaxEvents_le hwf)
  refine ⟨_, hlast, ?_, hclear⟩
  rw [wtmsPayload_bit7 _ hseven, tdiSlot, hv, hb]
  exact getLast?_eq_lastBit hne

/-! ## A write with a carry pending -/

theorem queued_clearCarry (f : List Byte) (s : State) : (clearCarry s).queued f = clearCarry (s.queued f) := by
  rw [State.queued, State.queued, apply_ite clearCarry]
  rfl

theorem Res.bind_assoc {α β γ : Type} (r : Res α) (f : α → State → Res β) (g : β → State → Res γ) :
    (r.bind f).bind g = r.bind fun a s => (f a s).bind g := by
  cases r <;> rfl

theorem Res.bind_congr {α β : Type} {r : Res α} {f g : α → State → Res β} (h : ∀ a t, r = .ok a t → f a t = g a t) :
    r.bind f = r.bind g := by
  cases r with
  | ok a t => exact h a t rfl
  | err e t => rfl

/-- `QUEUE` does not look at the carry, and a failed call discards it (R141). -/
theorem queueBytes_clearCarry {f : List Byte} {s : State} (hf : f.length ≤ s.cfg.maxFrame) :
    queueBytes f (clearCarry s) = (queueBytes f s).bind fun a t => .ok a (clearCarry t) := by
  rw [queueBytes_eq hf, queueBytes_eq (s := clearCarry s) hf, queued_clearCarry]
  by_cases hroom : s.fits f.length ∨ s.callFails = false
  · rw [if_pos hroom, if_pos (c := (clearCarry s).fits f.length ∨ (clearCarry s).callFails = false) hroom, bind_ok]
  · rw [if_neg hroom, if_neg (c := (clearCarry s).fits f.length ∨ (clearCarry s).callFails = false) hroom]
    rfl

/-- Nor does a part of a `WRITE`, a frame of the bits `b` where there are any. -/
theorem emitUnlessEmpty_clearCarry {mk : Bits → Frame} {b : Bits} {s : State}
    (h : b ≠ [] → (mk b).size ≤ s.cfg.maxFrame) :
    (if b = [] then .ok () (clearCarry s) else emit (mk b) (clearCarry s)) =
      (if b = [] then .ok () s else emit (mk b) s).bind fun a t => .ok a (clearCarry t) := by
  split
  · rfl
  · next hne => exact queueBytes_clearCarry (by rw [encodeFrame_length]; exact h hne)

theorem emitBytes_clearCarry {b : Bits} {s : State} (h : b ≠ [] → 3 + b.length / 8 ≤ s.cfg.maxFrame) :
    emitBytes b (clearCarry s) = (emitBytes b s).bind fun a t => .ok a (clearCarry t) :=
  emitUnlessEmpty_clearCarry h

theorem emitBits_clearCarry {b : Bits} {s : State} (h : 3 ≤ s.cfg.maxFrame) :
    emitBits b (clearCarry s) = (emitBits b s).bind fun a t => .ok a (clearCarry t) :=
  emitUnlessEmpty_clearCarry fun _ => h

/-- Once no check refuses for it, a pending carry has no part in a `WRITE`: the last bit overwrites it (R153). -/
theorem writeSeq_clearCarry {b : Bits} {s : State} (hwf : s.cfg.wf = true) (hwrite : writeErr s.cfg b = none)
    (hfree : s.carryFree) : writeSeq b (clearCarry s) = writeSeq b s := by
  have hbytes : bytePart (sentBits b) ≠ [] → 3 + (bytePart (sentBits b)).length / 8 ≤ s.cfg.maxFrame := by
    have hmax := ((writeErr_eq_none _ _).mp hwrite).2
    have hlen := bytePart_sentBits_length b
    intro hne
    have := List.length_pos_iff.mpr hne
    omega
  have hfree' : carryErr (clearCarry s) = none := carryErr_of_free fun _ => rfl
  rw [writeSeq, writeSeq, clearCarry_cfg, hwrite, hfree', carryErr_of_free hfree, check_none, check_none, check_nil,
    check_none, check_none, check_nil, emitBytes_clearCarry hbytes, Res.bind_assoc]
  refine Res.bind_congr fun _ t ht => ?_
  have hcfg : t.cfg = s.cfg := ((emitBytes_runsWithin (w := tableRow (.writeBytes b)) _ s).ok _ _ ht).cfg
  have hsize : 3 ≤ t.cfg.maxFrame := Nat.le_trans (by decide) (hcfg ▸ Config.maxFrame_ge hwf)
  rw [bind_ok, emitBits_clearCarry hsize, Res.bind_assoc]
  rfl

/-! ## A write whose frames fit -/

/-- The bytes of a frame of these bits, or of no frame where there are none (R151). -/
def frameUnlessEmpty (c : Config) (mk : Bits → Frame) (b : Bits) : List Byte :=
  if b = [] then [] else encodeFrame c (mk b)

theorem emitUnlessEmpty_of_fits {mk : Bits → Frame} {b : Bits} {s : State}
    (h : s.fits (frameUnlessEmpty s.cfg mk b).length) :
    (if b = [] then .ok () s else emit (mk b) s) = .ok () (bufAppend (frameUnlessEmpty s.cfg mk b) s) := by
  by_cases hb : b = []
  · simp [frameUnlessEmpty, hb, bufAppend]
  · rw [frameUnlessEmpty, if_neg hb] at h ⊢
    rw [if_neg hb]
    exact queueBytes_fits h

theorem dataFrames_eq (c : Config) (b : Bits) :
    dataFrames c b =
      frameUnlessEmpty c .wbytes (bytePart (sentBits b)) ++ frameUnlessEmpty c .wbits (bitPart (sentBits b)) := by
  simp only [dataFrames, frameUnlessEmpty, bytePart_sentBits_eq_nil, bitPart_sentBits_eq_nil, ite_not,
    ← bytePart_sentBits, ← bitPart_sentBits]

/-- `WRITE` where its frames fit: they are appended and the last bit is the carry (R151, R152). -/
theorem writeSeq_of_fits {b : Bits} {s : State} (hwrite : writeErr s.cfg b = none) (hfree : s.carryFree)
    (h : s.fits (dataFrames s.cfg b).length) :
    writeSeq b s = .ok () (setCarry (lastBit b) (bufAppend (dataFrames s.cfg b) s)) := by
  rw [dataFrames_eq, State.fits, List.length_append] at h
  have hbytes : s.fits (frameUnlessEmpty s.cfg .wbytes (bytePart (sentBits b))).length := by rw [State.fits]; omega
  have hbits : (bufAppend (frameUnlessEmpty s.cfg .wbytes (bytePart (sentBits b))) s).fits
      (frameUnlessEmpty s.cfg .wbits (bitPart (sentBits b))).length := by
    rw [State.fits, bufAppend_buf, List.length_append, bufAppend_cfg]
    omega
  rw [writeSeq, hwrite, carryErr_of_free hfree, check_none, check_none, check_nil, emitBytes,
    emitUnlessEmpty_of_fits hbytes, bind_ok, emitBits, emitUnlessEmpty_of_fits hbits, bind_ok, dataFrames_eq]
  simp [bufAppend]

/-- Settles O27: no check refuses under LEGACY, so the carry has no part in the write; where the frames fit it is
`writeSeq_of_fits`. -/
theorem legacyWriteOverwritesCarry : Obligations.LegacyWriteOverwritesCarry := by
  unfold Obligations.LegacyWriteOverwritesCarry
  intro s b hwf hlegacy hopen hpending hwrite
  have hfree : s.carryFree := by simp [State.carryFree, hlegacy]
  have hexec : exec (.write b) s = deliver noValue (writeSeq b s) := checked_runs (by simp [hopen])
  rw [hexec]
  refine ⟨?_, fun hfits => ?_⟩
  · rw [← writeSeq_clearCarry hwf hwrite hfree]
    exact (checked_runs (s := clearCarry s) (by simp [hopen])).symm
  · rw [writeSeq_of_fits hwrite hfree hfits, deliver_ok, returns]
    simp [setCarry, bufAppend, hpending, noValue, lastBit]

end Sys2Proof.Machine

/-! # The sequencer (spec/42_engine.md)

An operation of the sequencer is cut into its parts by `deliver_bind`; a part runs as the operation of its name, since
it looks at nothing the operation before it delivered. A reset is a pulse on the reset pin and a frame of events, each
with its exact outcome where the calls complete and the state it leaves where one fails. -/

namespace Sys2Proof

theorem Config.tmsMaxEvents_ge {c : Config} (hc : c.wf = true) : 5 ≤ c.tmsMaxEvents := by
  simp only [Config.wf, Bool.and_eq_true, decide_eq_true_eq] at hc
  simp only [hc]

end Sys2Proof

namespace Sys2Proof.Machine

/-! ## Checks -/

theorem writeErr_of_nil {c : Config} {b : Bits} (h : b = []) : writeErr c b = some (.pie .emptyWrite) :=
  if_pos (by simp [h])

theorem writeErr_of_large {c : Config} {b : Bits} (hb : b ≠ []) (hbytes : 0 < (b.length - 1) / 8)
    (h : c.maxFrame < 3 + (b.length - 1) / 8) :
    writeErr c b = some (.pie (.frameTooLarge (3 + (b.length - 1) / 8))) := by
  rw [writeErr, if_neg (by simpa using hb), if_pos hbytes, payloadErr_of_large h]

/-- What ended with a result passed its checks. -/
theorem check_passed {α : Type} {es : List (Option Err)} {s t : State} {k : State → Res α} {a : α}
    (h : check es s k = .ok a t) : ∀ e ∈ es, e = none := by
  obtain ⟨hpass, -⟩ | ⟨e, -, hk⟩ := check_cases es s k
  · exact hpass
  · rw [hk] at h
    cases h

/-- In an open session the session check passes and the rest does not look at the last outcome, so an operation of this
shape does the same after any other. -/
theorem deliver_check_session {α : Type} {v : α → Value} {k : State → Res α} {s : State} (hk : ReplyBlind k)
    (hopen : s.session = .opened) (x : Option Reply) :
    deliver v (check [sessionErr { s with reply := x }] { s with reply := x } k) = deliver v (k s) :=
  (checked_runs (by simp [hopen])).trans (hk.deliver v x s)

/-! ## Parts that run as operations -/

theorem writeTms_replyBlind (ev : Bits) : ReplyBlind (writeTms ev) :=
  .check (es := fun s => [tmsErr s.cfg ev]) (fun _ _ => rfl) <|
    .bind (fun x s => emit_replyBlind (.wtms ev (tdiSlot s)) x s) fun _ _ _ => rfl

theorem emitBytes_replyBlind (b : Bits) : ReplyBlind (emitBytes b) :=
  .ite (c := fun _ => b = []) (fun _ _ => Iff.rfl) (fun _ _ => rfl) (emit_replyBlind _)

theorem writeSeq_replyBlind (b : Bits) : ReplyBlind (writeSeq b) :=
  .check (es := fun s => [writeErr s.cfg b, carryErr s]) (fun _ _ => rfl) <|
    (emitBytes_replyBlind _).bind fun _ => writeTail_replyBlind _ _

theorem readBytes_replyBlind (n : Nat) : ReplyBlind (readBytes n) :=
  (exchange_replyBlind _ _).bind fun _ _ _ => rfl

theorem readSeq_replyBlind (n : Nat) : ReplyBlind (readSeq n) :=
  .check (es := fun s => [readErr s.cfg n, carryErr s]) (fun _ _ => rfl) <|
    (readIf_replyBlind _ (readBytes_replyBlind _)).bind fun bytes => readTail_replyBlind _ bytes

theorem sendTms_replyBlind (ps : List Bits) : ReplyBlind (sendTms ps) := by
  induction ps with
  | nil => exact fun _ _ => rfl
  | cons p ps ih => exact (writeTms_replyBlind p).bind fun _ => ih

/-- `CHANGE_STATE(t)` along its route: the pieces, then the pointer at the target (R182). -/
theorem changeState_of_route {t : Tap} {s : State} {ev : Bits} (h : route s.tap t = .ok ev) :
    changeState t s =
      (sendTms (chunks ev.length s.cfg.tmsMaxEvents ev) s).bind fun _ u => .ok () { u with tap := t } := by
  obtain ⟨ev', hroute, hends, -⟩ := route_ok s.tap t
  obtain rfl : ev' = ev := by simpa [h] using hroute.symm
  rw [changeState, h]
  exact Res.bind_congr fun _ u hu => by rw [sendTms_tap _ _ _ hu, hends]

theorem changeState_replyBlind (t : Tap) : ReplyBlind (changeState t) := by
  intro x s
  obtain ⟨ev, hroute, -⟩ := route_ok s.tap t
  rw [changeState_of_route hroute, changeState_of_route (s := { s with reply := x }) hroute]
  exact (sendTms_replyBlind _).bind (f := fun _ u => .ok () { u with tap := t }) (fun _ _ _ => rfl) x s

section
variable {s : State} (hopen : s.session = .opened) (x : Option Reply)
include hopen

theorem exec_writeTms_of_opened (ev : Bits) :
    exec (.writeTms ev) { s with reply := x } = deliver noValue (writeTms ev s) :=
  deliver_check_session (writeTms_replyBlind ev) hopen x

theorem exec_write_of_opened (b : Bits) : exec (.write b) { s with reply := x } = deliver noValue (writeSeq b s) :=
  deliver_check_session (writeSeq_replyBlind b) hopen x

theorem exec_read_of_opened (n : Nat) : exec (.read n) { s with reply := x } = deliver Value.bits (readSeq n s) :=
  deliver_check_session (readSeq_replyBlind n) hopen x

theorem exec_changeState_of_opened (t : Tap) :
    exec (.changeState t) { s with reply := x } = deliver noValue (changeState t s) :=
  deliver_check_session (changeState_replyBlind t) hopen x

end

/-- A part that keeps R32's column session leaves an open session open. -/
theorem RunsWithin.opened {α : Type} {w : Columns} {s t : State} {r : Res α} {a : α} (h : RunsWithin w s r)
    (hw : w.session = false) (hopen : s.session = .opened) (hr : r = .ok a t) : t.session = .opened :=
  ((h.ok a t hr).session hw).trans hopen

theorem changeState_opened {t : Tap} {s u : State} (hopen : s.session = .opened) (h : changeState t s = .ok () u) :
    u.session = .opened :=
  (changeState_runsWithin (w := tableRow (.changeState t)) rfl rfl t s).opened rfl hopen h

theorem writeSeq_opened {b : Bits} {s u : State} (hopen : s.session = .opened) (h : writeSeq b s = .ok () u) :
    u.session = .opened :=
  (writeSeq_runsWithin (w := tableRow (.write b)) rfl b s).opened rfl hopen h

theorem readSeq_opened {n : Nat} {s u : State} {r : Bits} (hopen : s.session = .opened) (h : readSeq n s = .ok r u) :
    u.session = .opened :=
  (readSeq_runsWithin (w := tableRow (.read n)) n s).opened rfl hopen h

theorem writeTms_opened {ev : Bits} {s u : State} (hopen : s.session = .opened) (h : writeTms ev s = .ok () u) :
    u.session = .opened :=
  (writeTms_runsWithin (w := tableRow (.writeTms ev)) rfl ev s).opened rfl hopen h

/-! ## `close` -/

theorem txClose_of_served {s : State} (h : s.callFails = false) :
    txClose s = .ok () (s.popAnswer.record (.txClose true)) := by
  rw [txClose, if_neg (by simp [h])]

theorem txClose_fails {s : State} (h : s.callFails = true) :
    ∃ l, txClose s = .err (.te .closeFailed) (s.afterFailure (.txClose false) l) :=
  ⟨_, by rw [txClose, if_pos h]; rfl⟩

/-- `FLUSH` whose call, if it makes one, completes (R144). -/
theorem flushBuf_of_served {s : State} (h : s.buf ≠ [] → s.callFails = false) :
    flushBuf s = .ok () (if s.buf = [] then s else s.sent) := by
  by_cases hbuf : s.buf = []
  · rw [if_pos hbuf, flushBuf, hbuf]
    rfl
  · rw [if_neg hbuf, flushBuf_eq hbuf, if_neg (by simp [h hbuf])]

/-- Settles O30: the checks; then the flush and `TxClose`, each exactly, however it ends. -/
theorem closeEndsSession : Obligations.CloseEndsSession := by
  unfold Obligations.CloseEndsSession
  intro s
  refine ⟨fun hclosed => checked_closed hclosed, fun hopen hpending => ?_, fun hopen hfree => ?_⟩
  · exact checked_refuses (by simp [hopen, carryErr_of_pending hpending])
  have hexec : exec .close s = deliver noValue ((flushBuf s).bind fun _ t =>
      (txClose (clearCarry t)).bind fun _ u => .ok () { u with session := .closed }) :=
    checked_runs (by simp [hopen, carryErr_of_free hfree])
  rw [hexec]
  refine ⟨fun hbuf hcall => ?_, fun u hu hserved => ?_⟩
  · exact ⟨_, by rw [flushBuf_eq hbuf, if_pos hcall]; rfl⟩
  · rw [flushBuf_of_served hserved, ← hu, bind_ok]
    refine ⟨fun hcall => ?_, fun hcall => ?_⟩
    · rw [txClose_of_served (s := clearCarry u) hcall]
      rfl
    · obtain ⟨l, hl⟩ := txClose_fails (s := clearCarry u) hcall
      exact ⟨l, by rw [hl]; rfl⟩

/-! ## `change_state` -/

theorem chunks_nil (fuel n : Nat) : chunks fuel n [] = [] := by
  cases fuel <;> rfl

/-- The first piece, and the pieces of the rest. -/
theorem chunks_of_ne_nil {ev : Bits} (h : ev ≠ []) (n : Nat) :
    chunks ev.length n ev = ev.take n :: chunks (ev.length - 1) n (ev.drop n) := by
  obtain ⟨fuel, hfuel⟩ := Nat.exists_eq_succ_of_ne_zero (List.length_pos_iff.mpr h).ne'
  simp [hfuel, chunks, h]

/-- A sequence of at most `n` events is one piece, or none. -/
theorem chunks_of_le {fuel n : Nat} {ev : Bits} (hfuel : ev.length ≤ fuel) (hn : ev.length ≤ n) :
    chunks fuel n ev = if ev = [] then [] else [ev] := by
  cases fuel with
  | zero => simp [List.length_eq_zero_iff.mp (Nat.le_zero.mp hfuel), chunks]
  | succ fuel => rw [chunks, List.take_of_length_le hn, List.drop_of_length_le hn, chunks_nil]

/-- Up to `2 * n` events are two pieces at most (R182). -/
theorem chunks_two {n : Nat} {ev : Bits} (h : ev ≠ []) (hn : 1 ≤ n) (hlen : ev.length ≤ 2 * n) :
    chunks ev.length n ev = ev.take n :: if ev.drop n = [] then [] else [ev.drop n] := by
  rw [chunks_of_ne_nil h, chunks_of_le (by rw [List.length_drop]; omega) (by rw [List.length_drop]; omega)]

theorem route_self (t : Tap) : route t t = .ok [] := by
  cases t <;> rfl

/-- To the pointer's own state nothing is sent (R182, R289). -/
theorem changeState_self (s : State) : changeState s.tap s = .ok () s :=
  changeState_of_route (route_self s.tap)

/-- The route to another state: its events are those the claims speak of, 1 to 8 of them (R126, R127). -/
theorem route_routeEvents {source target : Tap} (hne : source ≠ target) :
    route source target = .ok (routeEvents source target) ∧ routeEvents source target ≠ [] ∧
      (routeEvents source target).length ≤ 8 := by
  obtain ⟨ev, hroute, -, hlen, hnil⟩ := route_ok source target
  obtain ⟨p, hp, hev⟩ := route_eq_ok hroute
  have heq : routeEvents source target = ev := by simp [routeEvents, hp, hev]
  rw [heq]
  exact ⟨hroute, fun h => hne (hnil.mp h), hlen⟩

/-- `CHANGE_STATE(t)` to another state: one or two pieces of the route, then the pointer at the target (R182). -/
theorem changeState_of_ne {t : Tap} {s : State} (hwf : s.cfg.wf = true) (hne : s.tap ≠ t) {ev : Bits}
    (hev : ev = routeEvents s.tap t) :
    changeState t s =
      (writeTms (ev.take s.cfg.tmsMaxEvents) s).bind fun _ u =>
        (sendTms (if ev.drop s.cfg.tmsMaxEvents = [] then [] else [ev.drop s.cfg.tmsMaxEvents]) u).bind fun _ v =>
          .ok () { v with tap := t } := by
  obtain ⟨hroute, hnil, hlen⟩ := route_routeEvents hne
  have hmax := Config.tmsMaxEvents_ge hwf
  rw [← hev] at hroute hnil hlen
  rw [changeState_of_route hroute, chunks_two hnil (by omega) (by omega), sendTms, Res.bind_assoc]

/-- The second piece, where there is one, runs as `write_tms`. -/
theorem deliver_sendTms_tail {ev : Bits} {s : State} (hopen : s.session = .opened) (t : Tap) (x : Option Reply) :
    deliver noValue ((sendTms (if ev = [] then [] else [ev]) s).bind fun _ u => .ok () { u with tap := t }) =
      andThen (if ev = [] then returns .none { s with reply := x } else exec (.writeTms ev) { s with reply := x })
        fun u => returns .none { u with tap := t } := by
  by_cases hnil : ev = []
  · rw [if_pos hnil, if_pos hnil]
    rfl
  · rw [if_neg hnil, if_neg hnil, exec_writeTms_of_opened hopen, sendTms, Res.bind_assoc]
    exact deliver_bind fun _ _ _ => rfl

/-- `go_idle` is `change_state RTI` (R183). -/
theorem exec_changeState_or_goIdle {i : Instr} {t : Tap} (h : i = .changeState t ∨ (i = .goIdle ∧ t = .rti))
    (s : State) :
    exec i s = deliver noValue (check [sessionErr s] s (changeState t)) := by
  obtain rfl | ⟨rfl, rfl⟩ := h <;> rfl

/-- Settles O31: the route is cut into two pieces at most, and each runs as a `write_tms`. -/
theorem changeStateIsItsParts : Obligations.ChangeStateIsItsParts := by
  unfold Obligations.ChangeStateIsItsParts
  intro s i t hi
  rw [exec_changeState_or_goIdle hi]
  refine ⟨fun hclosed => checked_closed hclosed, fun hopen hself => ?_, fun hwf hopen hne ev hev => ?_⟩
  · rw [checked_runs (by simp [hopen]), ← hself, changeState_self]
    rfl
  · rw [checked_runs (by simp [hopen]), changeState_of_ne hwf hne hev]
    refine (deliver_bind fun _ u hu => ?_).trans
      (congrArg (andThen · _) (exec_writeTms_of_opened hopen s.reply _).symm)
    exact deliver_sendTms_tail (writeTms_opened hopen hu) t _

/-! ## `write_ir`, `write_dr`, `read_dr` -/

/-- `write_ir` and `write_dr` differ in the states they enter and leave by (R184, R185). -/
theorem exec_writeIr_or_writeDr {i : Instr} {b : Bits} {shift update : Tap}
    (h : (i = .writeIr b ∧ shift = .shir ∧ update = .upir) ∨ (i = .writeDr b ∧ shift = .shdr ∧ update = .updr))
    (s : State) :
    exec i s = deliver noValue (check [sessionErr s, writeErr s.cfg b, carryErr s] s (writeReg shift update b)) := by
  obtain ⟨rfl, rfl, rfl⟩ | ⟨rfl, rfl, rfl⟩ := h <;> rfl

theorem deliver_writeReg {s : State} (hopen : s.session = .opened) (shift update : Tap) (b : Bits) :
    deliver noValue (writeReg shift update b s) =
      andThen (exec (.changeState shift) s) fun s₁ =>
        andThen (exec (.write b) s₁) fun s₂ => exec (.changeState update) s₂ := by
  refine (deliver_bind fun _ t ht => ?_).trans
    (congrArg (andThen · _) (exec_changeState_of_opened hopen s.reply shift).symm)
  have hopen₁ := changeState_opened hopen ht
  rw [exec_write_of_opened hopen₁]
  refine deliver_bind fun _ u hu => ?_
  exact (exec_changeState_of_opened (writeSeq_opened hopen₁ hu) _ update).symm

theorem deliver_readDr {s : State} (hopen : s.session = .opened) (n : Nat) :
    deliver Value.bits (readDr n s) =
      andThen (exec (.changeState .shdr) s) fun s₁ =>
        andThen (exec (.read n) s₁) fun s₂ =>
          andThen (exec (.changeState .updr) s₂) fun s₃ => returns (.bits (replyBits s₂)) s₃ := by
  refine (deliver_bind fun _ t ht => ?_).trans
    (congrArg (andThen · _) (exec_changeState_of_opened hopen s.reply .shdr).symm)
  have hopen₁ := changeState_opened hopen ht
  rw [exec_read_of_opened hopen₁]
  refine deliver_bind fun r u hu => ?_
  rw [exec_changeState_of_opened (readSeq_opened hopen₁ hu)]
  exact deliver_bind fun _ _ _ => rfl

/-- Settles O34: the checks in order; then `deliver_writeReg` and `deliver_readDr`. -/
theorem registerOperationsAreTheirParts : Obligations.RegisterOperationsAreTheirParts := by
  unfold Obligations.RegisterOperationsAreTheirParts
  refine ⟨fun s b i shift update _ hi => ?_, fun s n _ => ?_⟩
  · rw [exec_writeIr_or_writeDr hi]
    refine ⟨fun hclosed => checked_closed hclosed, fun hopen hnil => ?_, fun hopen hne hbytes hlarge => ?_,
      fun hopen hne hmax => ?_⟩
    · exact checked_refuses (by simp [hopen, writeErr_of_nil hnil])
    · exact checked_refuses (by simp [hopen, writeErr_of_large hne hbytes hlarge])
    have hwrite := (writeErr_eq_none s.cfg b).mpr ⟨by simpa using hne, hmax⟩
    refine ⟨fun hpending => ?_, fun hfree => ?_⟩
    · exact checked_refuses (by simp [hopen, hwrite, carryErr_of_pending hpending])
    · rw [checked_runs (by simp [hopen, hwrite, carryErr_of_free hfree]), deliver_writeReg hopen]
  · refine ⟨fun hclosed => checked_closed hclosed, fun hopen hlarge => ?_, fun hopen hmax =>
      ⟨fun hpending => ?_, fun hfree => ?_⟩⟩
    · exact checked_refuses (by simp [hopen, readErr_of_large hlarge])
    · exact checked_refuses (by simp [hopen, hmax, carryErr_of_pending hpending])
    · exact (checked_runs (by simp [hopen, hmax, carryErr_of_free hfree])).trans (deliver_readDr hopen n)

/-! ## `reset` -/

/-- The pulse on the reset pin, a delay on each edge (R187). -/
def resetPulse (s : State) : Res Unit :=
  (txSetPins (assertPins s.cfg) s).bind fun _ t =>
    (txSetPins (deassertPins t.cfg) (delay t)).bind fun _ u => .ok () (delay u)

/-- The five events that reset the remote TAP, sent (R187). -/
def resetEvents (s : State) : Res Unit := (writeTms (List.replicate 5 true) s).bind fun _ t => flushBuf t

/-- All that `reset` sends: what was queued, the pulse, the events. -/
def resetCalls (s : State) : Res Unit :=
  (flushBuf s).bind fun _ t => (resetPulse t).bind fun _ u => resetEvents u

/-- `reset` is its calls, then the pointer at TLR (R187). -/
theorem exec_reset {s : State} (hopen : s.session = .opened) :
    exec .reset s = deliver noValue ((resetCalls s).bind fun _ t => .ok () { t with tap := .tlr }) := by
  simp only [resetCalls, resetPulse, resetEvents, Res.bind_assoc, bind_ok]
  exact checked_runs (by simp [hopen])

/-! ### A call fails -/

/-- A failure after parts that kept their fields and the pointer is a failure from their start. -/
theorem Failed.of_kept {cause : TeCause} {s t u : State} {e : Err} (h : Failed cause t u e) (k : Kept s t)
    (htap : t.tap = s.tap) : Failed cause s u e :=
  ⟨h.err, h.buf, h.carryV, h.carryB, h.tap.trans htap, h.session.trans k.session, h.dir.trans k.dir, h.cfg.trans k.cfg,
    h.reply.trans k.reply, h.prov.trans k.prov, h.requests.trans k.requests, h.began.trans k.began,
    h.turn.trans k.turn, k.events.trans h.events⟩

/-- A part that leaves the pointer and, where it does not succeed, fails by a call with one of these causes (R141). -/
structure Attempts {α : Type} (causes : List TeCause) (s : State) (r : Res α) : Prop where
  ok : ∀ a t, r = .ok a t → Kept s t ∧ t.tap = s.tap
  err : ∀ e t, r = .err e t → ∃ cause ∈ causes, Failed cause s t e

section
variable {α β : Type} {causes : List TeCause} {s t : State}

theorem Attempts.pure (a : α) (h : Kept s t) (htap : t.tap = s.tap) : Attempts causes s (.ok a t) :=
  ⟨fun _ _ h' => by cases h'; exact ⟨h, htap⟩, fun _ _ h' => by cases h'⟩

theorem Attempts.fail {cause : TeCause} {e : Err} (h : Failed cause s t e) (hc : cause ∈ causes) :
    Attempts causes s (.err e t : Res α) :=
  ⟨fun _ _ h' => (by cases h'), fun _ _ h' => by cases h'; exact ⟨cause, hc, h⟩⟩

theorem Attempts.after {r : Res α} (h : Attempts causes t r) (k : Kept s t) (htap : t.tap = s.tap) :
    Attempts causes s r := by
  constructor
  · intro a u hu
    obtain ⟨hk, hu⟩ := h.ok a u hu
    exact ⟨k.trans hk, hu.trans htap⟩
  · intro e u hu
    obtain ⟨cause, hc, hf⟩ := h.err e u hu
    exact ⟨cause, hc, hf.of_kept k htap⟩

theorem Attempts.bind {r : Res α} {f : α → State → Res β} (h : Attempts causes s r)
    (k : ∀ a t, r = .ok a t → Attempts causes t (f a t)) : Attempts causes s (r.bind f) := by
  cases r with
  | ok a t =>
    obtain ⟨hk, htap⟩ := h.ok a t rfl
    exact (k a t rfl).after hk htap
  | err e t =>
    obtain ⟨cause, hc, hf⟩ := h.err e t rfl
    exact .fail hf hc

theorem delay_kept (s : State) : Kept s (delay s) :=
  ⟨rfl, rfl, rfl, rfl, rfl, rfl, rfl, rfl, List.prefix_append _ _, id⟩

theorem flushBuf_attempts (hc : .writeFailed ∈ causes) (s : State) : Attempts causes s (flushBuf s) := by
  obtain ⟨-, h⟩ | ⟨-, -, h⟩ | ⟨e, t, -, -, h, hf⟩ := flushBuf_cases s <;> rw [h]
  · exact .pure _ (.refl s) rfl
  · exact .pure _ (flushed_kept s) rfl
  · exact .fail hf hc

theorem txSetPins_attempts (hc : .pinsFailed ∈ causes) (v : PinMask) (s : State) :
    Attempts causes s (txSetPins v s) := by
  obtain ⟨-, h⟩ | ⟨e, t, -, h, hf⟩ := txSetPins_cases v s
  · exact ⟨fun a t ht => ⟨(txSetPins_runs v s).ok a t ht, by rw [h] at ht; cases ht; rfl⟩, by simp [h]⟩
  · rw [h]
    exact .fail hf hc

theorem queueBytes_attempts (hc : .writeFailed ∈ causes) {f : List Byte} {s : State} (hf : f.length ≤ s.cfg.maxFrame) :
    Attempts causes s (queueBytes f s) := by
  refine ⟨fun _ t ht => ⟨(queueBytes_runs hf).ok _ t ht,
    ((queueBytes_runsWithin (w := tableRow (.queue f)) f s).ok _ t ht).tap rfl⟩, ?_⟩
  obtain ⟨hlarge, -⟩ | ⟨-, hq⟩ | ⟨-, -, -, hq⟩ | ⟨e, t, -, -, hq, hfailed⟩ := queueBytes_cases f s
  · omega
  · simp [hq]
  · simp [hq]
  · rw [hq]
    exact (Attempts.fail hfailed hc).err

theorem writeTms_attempts (hc : .writeFailed ∈ causes) {ev : Bits} {s : State}
    (hev : 1 ≤ ev.length ∧ ev.length ≤ s.cfg.tmsMaxEvents) (hsize : 3 ≤ s.cfg.maxFrame) :
    Attempts causes s (writeTms ev s) := by
  rw [writeTms, (tmsErr_eq_none _ _).mpr hev, check_none, check_nil]
  have hframe : (encodeFrame s.cfg (.wtms ev (tdiSlot s))).length ≤ s.cfg.maxFrame := by rwa [encodeFrame_length]
  exact (queueBytes_attempts hc hframe).bind fun _ t _ => .pure _ (clearCarry_kept t) rfl

end

/-- The causes by which a `reset` in an open session can fail (R187). -/
def resetCauses : List TeCause := [.writeFailed, .pinsFailed]

theorem resetPulse_attempts (s : State) : Attempts resetCauses s (resetPulse s) :=
  (txSetPins_attempts (by decide) _ s).bind fun _ t _ =>
    ((txSetPins_attempts (by decide) _ (delay t)).bind fun _ u _ => .pure _ (delay_kept u) rfl).after (delay_kept t) rfl

theorem resetEvents_attempts {s : State} (hwf : s.cfg.wf = true) : Attempts resetCauses s (resetEvents s) :=
  have hsize := Config.maxFrame_ge hwf
  (writeTms_attempts (by decide) ⟨by simp, by simpa using Config.tmsMaxEvents_ge hwf⟩ (by omega)).bind fun _ t _ =>
    flushBuf_attempts (by decide) t

theorem resetCalls_attempts {s : State} (hwf : s.cfg.wf = true) : Attempts resetCauses s (resetCalls s) := by
  have hflush := flushBuf_attempts (causes := resetCauses) (by decide) s
  refine hflush.bind fun _ t ht => (resetPulse_attempts t).bind fun _ u hu => resetEvents_attempts ?_
  obtain ⟨hkept, -⟩ := hflush.ok _ t ht
  obtain ⟨hkept', -⟩ := (resetPulse_attempts t).ok _ u hu
  rwa [hkept'.cfg, hkept.cfg]

/-- A `WRITE_TMS` that ended with a result has cleared the carry (R154). -/
theorem writeTms_clears {ev : Bits} {s t : State} (h : writeTms ev s = .ok () t) :
    t.carryV = false ∧ t.carryB = false :=
  have hev := check_passed h (tmsErr s.cfg ev) (by simp)
  writeTms_carry ((tmsErr_eq_none _ _).mp hev) h

/-- The events' frame takes the carry, and the last flush leaves an empty buffer. -/
theorem resetCalls_empties {s t : State} (h : resetCalls s = .ok () t) :
    t.buf = [] ∧ t.carryV = false ∧ t.carryB = false := by
  simp only [resetCalls, resetEvents, bind_eq_ok] at h
  obtain ⟨_, _, -, _, u, -, _, w, hw, ht⟩ := h
  obtain ⟨hv, hb⟩ := writeTms_clears hw
  obtain ⟨htv, htb⟩ := ((flushBuf_runsWithin (w := tableRow .flush) w).ok _ _ ht).carry rfl
  exact ⟨flushBuf_empties (.inl ht), htv.trans hv, htb.trans hb⟩

/-- In an open session `reset` ends at TLR, or a call has failed and the pointer is where it was (R187, R141). -/
theorem exec_reset_cases {s : State} (hwf : s.cfg.wf = true) (hopen : s.session = .opened) :
    ∃ t, exec .reset s = .next t ∧ t.session = .opened ∧ t.dir = s.dir ∧ t.buf = [] ∧ t.carryV = false ∧
      t.carryB = false ∧
      ((t.reply = some (.ok .none) ∧ t.tap = .tlr) ∨
        ((t.reply = some (.error (.te .writeFailed)) ∨ t.reply = some (.error (.te .pinsFailed))) ∧
          t.tap = s.tap)) := by
  have hcalls := resetCalls_attempts hwf
  rw [exec_reset hopen]
  cases hr : resetCalls s with
  | ok _ t =>
    obtain ⟨hkept, -⟩ := hcalls.ok _ t hr
    obtain ⟨hbuf, hv, hb⟩ := resetCalls_empties hr
    exact ⟨_, rfl, hkept.session.trans hopen, hkept.dir, hbuf, hv, hb, .inl ⟨rfl, rfl⟩⟩
  | err e t =>
    obtain ⟨cause, hcause, hfailed⟩ := hcalls.err e t hr
    refine ⟨_, rfl, hfailed.session.trans hopen, hfailed.dir, hfailed.buf, hfailed.carryV, hfailed.carryB,
      .inr ⟨?_, hfailed.tap⟩⟩
    simpa [hfailed.err, resetCauses] using hcause

/-! ### Every call answered -/

/-- No call of the operation fails (R29). -/
def State.AllServed (s : State) : Prop := ∀ a ∈ s.inp, a ≠ .fail

theorem State.AllServed.callFails {s : State} (h : s.AllServed) : s.callFails = false := by
  rw [State.callFails, State.answer]
  cases hinp : s.inp with
  | nil => rfl
  | cons a rest => simpa using h a (by simp [hinp])

/-- Some answers used up. -/
theorem State.AllServed.of_suffix {s t : State} (h : s.AllServed) (hinp : t.inp <:+ s.inp) : t.AllServed :=
  fun a ha => h a (hinp.mem ha)

/-- The pins set by a call that completes (20_memory.md R50). -/
def State.pinsSet (v : PinMask) (s : State) : State :=
  { s with
    events := s.events ++ [.setPins v s.dir true], inp := s.inp.tail, link := s.link.changePins s.cfg v s.dir }

theorem txSetPins_of_served (v : PinMask) {s : State} (h : s.callFails = false) :
    txSetPins v s = .ok () (s.pinsSet v) := by
  rw [txSetPins, if_neg (by simp [h])]
  rfl

/-- The calls of the pulse, each with its delay (R187). -/
def pulseEvents (c : Config) (dir : PinMask) : List TxEvent :=
  [.setPins (assertPins c) dir true, .delay c.settleDelay, .setPins (deassertPins c) dir true, .delay c.settleDelay]

theorem resetPulse_of_served {s : State} (h : s.AllServed) :
    ∃ l, resetPulse s = .ok () { s with
      events := s.events ++ pulseEvents s.cfg s.dir, inp := s.inp.tail.tail, link := l } := by
  have hserved : (delay (s.pinsSet (assertPins s.cfg))).AllServed := h.of_suffix (List.tail_suffix _)
  rw [resetPulse, txSetPins_of_served _ h.callFails, bind_ok, txSetPins_of_served _ hserved.callFails, bind_ok]
  refine ⟨((delay (s.pinsSet (assertPins s.cfg))).pinsSet (deassertPins s.cfg)).link, ?_⟩
  simp [delay, State.record, State.pinsSet, pulseEvents]

/-- The frame of five events with TMS at 1, the carry in its TDI slot (R75, R187). -/
def resetFrame (s : State) : List Byte := encodeFrame s.cfg (.wtms (List.replicate 5 true) (tdiSlot s))

/-- From an empty buffer the events go as one frame in one call. -/
theorem resetEvents_of_served {s : State} (hwf : s.cfg.wf = true) (hbuf : s.buf = []) (h : s.callFails = false) :
    ∃ l, resetEvents s = .ok () { s with
      events := s.events ++ [.write (resetFrame s) true], inp := s.inp.tail, carryV := false, carryB := false
      link := l } := by
  have hsize := Config.maxFrame_ge hwf
  have hev : tmsErr s.cfg (List.replicate 5 true) = none :=
    (tmsErr_eq_none _ _).mpr ⟨by simp, by simpa using Config.tmsMaxEvents_ge hwf⟩
  have hfits : s.fits (resetFrame s).length := by
    rw [State.fits, hbuf, resetFrame, encodeFrame_length, Frame.size, List.length_nil]
    omega
  have htms : writeTms (List.replicate 5 true) s = .ok () (clearCarry { s with buf := resetFrame s }) := by
    rw [writeTms, hev, check_none, check_nil, emit, ← resetFrame, queueBytes_fits hfits, bufAppend, hbuf]
    rfl
  have hframe : resetFrame s ≠ [] := encodeFrame_ne_nil _ _
  rw [resetEvents, htms, bind_ok, flushBuf_of_served (s := clearCarry { s with buf := resetFrame s }) fun _ => h]
  refine ⟨{ s with buf := resetFrame s }.sent.link, ?_⟩
  simp [hframe, State.sent, clearCarry, hbuf]

/-- `reset` once the buffer is empty, with every call answered (R187). -/
theorem exec_reset_of_flushed {s u : State} (hopen : s.session = .opened) (hflush : flushBuf s = .ok () u)
    (hwf : u.cfg.wf = true) (hbuf : u.buf = []) (h : u.AllServed) :
    ∃ l, exec .reset s = returns .none { u with
      events := u.events ++ pulseEvents u.cfg u.dir ++ [.write (resetFrame u) true], inp := u.inp.drop 3
      carryV := false, carryB := false, tap := .tlr, link := l } := by
  obtain ⟨l₁, hpulse⟩ := resetPulse_of_served h
  have hserved := h.of_suffix (t := { u with inp := u.inp.tail.tail })
    ((List.tail_suffix _).trans (List.tail_suffix _))
  obtain ⟨l₂, hevents⟩ := resetEvents_of_served (s := { u with
    events := u.events ++ pulseEvents u.cfg u.dir, inp := u.inp.tail.tail, link := l₁ }) hwf hbuf hserved.callFails
  refine ⟨l₂, ?_⟩
  rw [exec_reset hopen, resetCalls, hflush, bind_ok, hpulse, bind_ok, hevents]
  simp [returns, noValue, resetFrame, tdiSlot, ← List.drop_one]

/-- Settles O41: the checks; the ways to end by `exec_reset_cases`; with every call answered, the first flush and then
`exec_reset_of_flushed`. -/
theorem resetDrivesPinsAndEvents : Obligations.ResetDrivesPinsAndEvents := by
  unfold Obligations.ResetDrivesPinsAndEvents
  refine ⟨fun s hclosed => checked_closed hclosed, fun s => exec_reset_cases, fun s hwf hopen hinp => ?_⟩
  have hserved : s.AllServed := hinp
  have hflush := flushBuf_of_served fun _ => hserved.callFails
  by_cases hbuf : s.buf = []
  · rw [if_pos hbuf] at hflush
    obtain ⟨l, hl⟩ := exec_reset_of_flushed hopen hflush hwf hbuf hserved
    exact ⟨l, by rw [hl, List.append_assoc, if_pos hbuf, if_pos hbuf, List.append_nil, hbuf]; rfl⟩
  · rw [if_neg hbuf] at hflush
    have hrest : s.sent.AllServed := hserved.of_suffix (List.tail_suffix _)
    obtain ⟨l, hl⟩ := exec_reset_of_flushed hopen hflush hwf rfl hrest
    have hdrop : s.sent.inp.drop 3 = s.inp.drop 4 := List.drop_tail
    exact ⟨l, by rw [hl, List.append_assoc, if_neg hbuf, if_neg hbuf, hdrop]; rfl⟩

end Sys2Proof.Machine

/-! # Early errors have no effect (spec/60_exceptions.md R256)

A `PIE` or a `CME` comes from a check, and an operation's checks stand before its parts. But some parts check again, so
what is to be shown is that those checks cannot fail once the operation's own have passed: a part then ends well or by a
transport failure. That is `Runs`, already said of the smaller parts, and here of `WRITE` and the sequencer's parts. The
one thing a part's check depends on that an earlier part writes is the carry, which a route may clear and never sets. -/

namespace Sys2Proof

theorem Config.readBytesMax_ge {c : Config} (hc : c.wf = true) : 4 ≤ c.readBytesMax := by
  simp only [Config.wf, Bool.and_eq_true, decide_eq_true_eq] at hc
  simp only [hc]

end Sys2Proof

namespace Sys2Proof.Machine

/-! ## The carry between the parts of an operation -/

/-- A route of no piece changes nothing; one with a piece leaves no carry (42_engine.md R182). -/
theorem sendTms_carry {ps : List Bits} {s t : State} (h : sendTms ps s = .ok () t) :
    (ps = [] ∧ t = s) ∨ t.carryV = false := by
  induction ps generalizing s with
  | nil =>
    cases h
    exact .inl ⟨rfl, rfl⟩
  | cons p ps ih =>
    obtain ⟨_, u, hu, ht⟩ := bind_eq_ok.mp h
    obtain ⟨-, rfl⟩ | hclear := ih ht
    · exact .inr (writeTms_clears hu).1
    · exact .inr hclear

/-- A change of state clears the carry, unless the pointer is there already (R182, R289; log 25). -/
theorem changeState_carry {t : Tap} {s u : State} (h : changeState t s = .ok () u) :
    (s.tap = t ∧ u = s) ∨ u.carryV = false := by
  by_cases hself : s.tap = t
  · subst hself
    rw [changeState_self] at h
    cases h
    exact .inl ⟨rfl, rfl⟩
  · obtain ⟨hroute, hnil, -⟩ := route_routeEvents hself
    rw [changeState_of_route hroute, chunks_of_ne_nil hnil, bind_eq_ok] at h
    obtain ⟨_, v, hv, hu⟩ := h
    cases hu
    obtain ⟨hpieces, -⟩ | hclear := sendTms_carry hv
    · cases hpieces
    · exact .inr hclear

theorem carryErr_of_clear {s : State} (h : s.carryV = false) : carryErr s = none := carryErr_of_free fun _ => h

theorem changeState_carryErr {t : Tap} {s u : State} (hcarry : carryErr s = none) (h : changeState t s = .ok () u) :
    carryErr u = none := by
  obtain ⟨-, rfl⟩ | hclear := changeState_carry h
  · exact hcarry
  · exact carryErr_of_clear hclear

theorem writeSeq_tap {b : Bits} {s t : State} (h : writeSeq b s = .ok () t) : t.tap = s.tap :=
  ((writeSeq_runsWithin (w := tableRow (.write b)) rfl b s).ok _ _ h).tap rfl

/-- The exit frame of a register write takes the bit its data left as the carry (R184, R185). -/
theorem writeReg_carryErr {shift update : Tap} {b : Bits} {s t : State} (hne : shift ≠ update)
    (h : writeReg shift update b s = .ok () t) : carryErr t = none := by
  obtain ⟨_, u, hu, h⟩ := bind_eq_ok.mp h
  obtain ⟨_, v, hv, h⟩ := bind_eq_ok.mp h
  obtain ⟨hself, -⟩ | hclear := changeState_carry h
  · exact absurd (((writeSeq_tap hv).trans (changeState_tap hu)).symm.trans hself) hne
  · exact carryErr_of_clear hclear

/-! ## Parts that, their checks passed, fail by a transport call only -/

/-- A part from a state that keeps what no part writes. -/
theorem Runs.bindKept {α β : Type} {s : State} {r : Res α} {f : α → State → Res β} (h : Runs s r)
    (k : ∀ a t, Kept s t → r = .ok a t → Runs t (f a t)) : Runs s (r.bind f) :=
  h.bind fun a t ht => k a t (h.ok a t ht) ht

theorem emitBytes_runs {b : Bits} {s : State} (h : b ≠ [] → 3 + b.length / 8 ≤ s.cfg.maxFrame) :
    Runs s (emitBytes b s) := by
  rw [emitBytes]
  split
  · exact .pure _ (.refl s)
  · next hne => exact emit_runs (f := .wbytes b) (h hne)

theorem emitBits_runs {b : Bits} {s : State} (h : 3 ≤ s.cfg.maxFrame) : Runs s (emitBits b s) := by
  rw [emitBits]
  split
  · exact .pure _ (.refl s)
  · exact emit_runs (f := .wbits b) h

/-- The check of a `WRITE` bounds the frame of its byte part (41_framing.md R151). -/
theorem bytePart_sentBits_size {c : Config} {b : Bits} (h : writeErr c b = none) (hne : bytePart (sentBits b) ≠ []) :
    3 + (bytePart (sentBits b)).length / 8 ≤ c.maxFrame := by
  have hmax := ((writeErr_eq_none _ _).mp h).2
  rw [Ne, bytePart_sentBits_eq_nil, not_not] at hne
  have hlen := bytePart_sentBits_length b
  have := hmax hne
  omega

section
variable {s : State} (hwf : s.cfg.wf = true)
include hwf

theorem changeState_runs_of_wf (t : Tap) : Runs s (changeState t s) :=
  have hevents := Config.tmsMaxEvents_ge hwf
  have hsize := Config.maxFrame_ge hwf
  changeState_runs t (by omega) (by omega)

theorem writeSeq_runs {b : Bits} (hwrite : writeErr s.cfg b = none) (hcarry : carryErr s = none) :
    Runs s (writeSeq b s) := by
  have hsize := Config.maxFrame_ge hwf
  rw [writeSeq, hwrite, hcarry, check_none, check_none, check_nil]
  refine (emitBytes_runs (bytePart_sentBits_size hwrite)).bindKept fun _ t ht _ => ?_
  exact (emitBits_runs (by rw [ht.cfg]; omega)).bind fun _ u _ => .pure _ (setCarry_kept _ u)

theorem readSeq_runs_of_wf {n : Nat} (hread : readErr s.cfg n = none) (hcarry : carryErr s = none) :
    Runs s (readSeq n s) :=
  readSeq_runs hread hcarry (Nat.le_trans (by decide) (Config.maxFrame_ge hwf))

/-- A register write: the data's own checks pass in the state the entry leaves (42_engine.md R184, R185). -/
theorem writeReg_runs (shift update : Tap) {b : Bits} (hwrite : writeErr s.cfg b = none) (hcarry : carryErr s = none) :
    Runs s (writeReg shift update b s) := by
  refine (changeState_runs_of_wf hwf shift).bindKept fun _ t ht hin => ?_
  rw [← ht.cfg] at hwf hwrite
  refine (writeSeq_runs hwf hwrite (changeState_carryErr hcarry hin)).bindKept fun _ u hu _ => ?_
  rw [← hu.cfg] at hwf
  exact changeState_runs_of_wf hwf update

/-- A register read (42_engine.md R186). -/
theorem readDr_runs {n : Nat} (hread : readErr s.cfg n = none) (hcarry : carryErr s = none) : Runs s (readDr n s) := by
  refine (changeState_runs_of_wf hwf .shdr).bindKept fun _ t ht hin => ?_
  rw [← ht.cfg] at hwf hread
  refine (readSeq_runs_of_wf hwf hread (changeState_carryErr hcarry hin)).bindKept fun _ u hu _ => ?_
  rw [← hu.cfg] at hwf
  exact (changeState_runs_of_wf hwf .updr).bind fun _ v _ => .pure _ (.refl v)

theorem readDrThenIdle_runs {n : Nat} (hread : readErr s.cfg n = none) (hcarry : carryErr s = none) :
    Runs s (readDrThenIdle n s) := by
  refine (readDr_runs hwf hread hcarry).bindKept fun _ t ht _ => ?_
  rw [← ht.cfg] at hwf
  exact (changeState_runs_of_wf hwf .rti).bind fun _ u _ => .pure _ (.refl u)

/-- Two register writes: the first leaves no carry to refuse the second (42_engine.md R191, R193). -/
theorem loadAndWrite_runs {pattern b : Bits} (hpattern : writeErr s.cfg pattern = none)
    (hwrite : writeErr s.cfg b = none) (hcarry : carryErr s = none) : Runs s (loadAndWrite pattern b s) := by
  refine (writeReg_runs hwf .shir .upir hpattern hcarry).bindKept fun _ t ht hin => ?_
  rw [← ht.cfg] at hwf hwrite
  refine (writeReg_runs hwf .shdr .updr hwrite (writeReg_carryErr (by decide) hin)).bindKept fun _ u hu _ => ?_
  rw [← hu.cfg] at hwf
  exact changeState_runs_of_wf hwf .rti

/-- A register write and a register read, of the length the provider answers (42_engine.md R192). -/
theorem loadAndRead_runs {pattern : Bits} (hpattern : writeErr s.cfg pattern = none)
    (hread : readErr s.cfg s.prov.boundaryLength.toNat = none) (hcarry : carryErr s = none) :
    Runs s ((writeIr pattern s).bind fun _ t => readDrThenIdle t.prov.boundaryLength.toNat t) := by
  refine (writeReg_runs hwf .shir .upir hpattern hcarry).bindKept fun _ t ht hin => ?_
  rw [← ht.cfg] at hwf hread
  rw [← ht.prov] at hread
  exact readDrThenIdle_runs hwf hread (writeReg_carryErr (by decide) hin)

end

/-! ## Errors of parts -/

/-- The only errors of the part are transport failures. -/
def FailsLate {α : Type} (r : Res α) : Prop := ∀ e t, r = .err e t → e.isEarly = false

/-- Where the part ends with a `PIE` or a `CME`, the state is `s`. -/
def EarlyKeeps {α : Type} (s : State) (r : Res α) : Prop := ∀ e t, r = .err e t → e.isEarly = true → t = s

section
variable {α β : Type} {s : State} {r : Res α}

theorem FailsLate.pure (a : α) (t : State) : FailsLate (.ok a t) := fun _ _ h => by cases h

theorem FailsLate.bind {f : α → State → Res β} (h : FailsLate r) (k : ∀ a t, FailsLate (f a t)) :
    FailsLate (r.bind f) := by
  cases r with
  | ok a t => exact k a t
  | err e t =>
    intro e' t' h'
    cases h'
    exact h e t rfl

theorem Failed.failsLate {cause : TeCause} {t : State} {e : Err} (h : Failed cause s t e) :
    FailsLate (.err e t : Res α) := by
  intro e' t' h'
  cases h'
  rw [h.err]
  rfl

theorem Runs.failsLate (h : Runs s r) : FailsLate r := by
  intro e t ht
  obtain ⟨_, -, rfl⟩ := (h.err e t ht).err
  rfl

theorem FailsLate.earlyKeeps (h : FailsLate r) : EarlyKeeps s r := by
  intro e t ht hearly
  rw [h e t ht] at hearly
  cases hearly

theorem EarlyKeeps.refuse (e : Err) : EarlyKeeps s (.err e s : Res α) := by
  intro e' t h _
  cases h
  rfl

/-- An early error of a sequence is one of its first part, if the rest has none. -/
theorem EarlyKeeps.bind {f : α → State → Res β} (h : EarlyKeeps s r) (k : ∀ a t, FailsLate (f a t)) :
    EarlyKeeps s (r.bind f) := by
  cases r with
  | ok a t => exact (k a t).earlyKeeps
  | err e t =>
    intro e' t' h' hearly
    cases h'
    exact h e t rfl hearly

/-- A check that fails changes nothing, so only what runs once all have passed matters (R255, R256). -/
theorem EarlyKeeps.checked {es : List (Option Err)} {k : State → Res α}
    (h : (∀ e ∈ es, e = none) → EarlyKeeps s (check es s k)) : EarlyKeeps s (check es s k) := by
  obtain ⟨hpass, -⟩ | ⟨e, -, hk⟩ := check_cases es s k
  · exact h hpass
  · rw [hk]
    exact .refuse e

/-- The same of the body the checks guard. -/
theorem EarlyKeeps.check {es : List (Option Err)} {k : State → Res α}
    (h : (∀ e ∈ es, e = none) → EarlyKeeps s (k s)) : EarlyKeeps s (check es s k) := by
  obtain ⟨hpass, hk⟩ | ⟨e, -, hk⟩ := check_cases es s k <;> rw [hk]
  · exact h hpass
  · exact .refuse e

end

theorem queueBytes_earlyKeeps (f : List Byte) (s : State) : EarlyKeeps s (queueBytes f s) :=
  .checked fun hpass => (queueBytes_runs ((frameErr_eq_none _ _).mp (hpass _ (by simp)))).failsLate.earlyKeeps

theorem emit_earlyKeeps (f : Sys2Proof.Frame) (s : State) : EarlyKeeps s (emit f s) := queueBytes_earlyKeeps _ s

theorem exchange_earlyKeeps (f : Sys2Proof.Frame) (n : Nat) (s : State) : EarlyKeeps s (exchange f n s) :=
  (emit_earlyKeeps f s).bind fun _ t => (flushBuf_runs t).failsLate.bind fun _ u => (txRead_runs n u).failsLate

theorem writeTms_earlyKeeps (ev : Bits) (s : State) : EarlyKeeps s (writeTms ev s) :=
  .check fun _ => (emit_earlyKeeps _ s).bind fun _ t => .pure () (clearCarry t)

theorem writeSeq_earlyKeeps {s : State} (hwf : s.cfg.wf = true) (b : Bits) : EarlyKeeps s (writeSeq b s) :=
  .checked fun hpass => (writeSeq_runs hwf (hpass _ (by simp)) (hpass _ (by simp))).failsLate.earlyKeeps

theorem readSeq_earlyKeeps {s : State} (hwf : s.cfg.wf = true) (n : Nat) : EarlyKeeps s (readSeq n s) :=
  .checked fun hpass => (readSeq_runs_of_wf hwf (hpass _ (by simp)) (hpass _ (by simp))).failsLate.earlyKeeps

theorem txOpen_failsLate (vid pid idx : Nat) (dir : PinMask) (freq : Nat) (s : State) :
    FailsLate (txOpen vid pid idx dir freq s) := by
  rw [txOpen]
  split
  · intro e t h
    cases h
    rfl
  · exact .pure _ _

theorem txClose_failsLate (s : State) : FailsLate (txClose s) := by
  obtain ⟨-, h⟩ | ⟨e, t, -, h, hf⟩ := txClose_cases s <;> rw [h]
  · exact .pure _ _
  · exact hf.failsLate

/-! ## Operations -/

/-- A `PIE` or a `CME` that the operation ends with is delivered in the state it began in. -/
def RefusesEarly (s : State) (o : Host.Outcome State Fault Refusal) : Prop :=
  ∀ t e, o = .next t → t.reply = some (.error e) → e.isEarly = true → o = refuses e s

theorem EarlyKeeps.deliver {α : Type} {v : α → Value} {s : State} {r : Res α} (h : EarlyKeeps s r) :
    RefusesEarly s (deliver v r) := by
  intro t e ht hreply hearly
  obtain ⟨a, u, -, hd⟩ | ⟨e', u, hr, hd⟩ := deliver_cases v r <;> rw [hd] at ht <;> cases ht
  · cases hreply
  · cases hreply
    rw [hd, h e u hr hearly]
    rfl

/-- An operation whose parts have no early errors once its checks have passed. -/
theorem checked_refusesEarly {α : Type} {v : α → Value} {es : List (Option Err)} {s : State} {k : State → Res α}
    (h : (∀ e ∈ es, e = none) → FailsLate (k s)) : RefusesEarly s (deliver v (check es s k)) :=
  (EarlyKeeps.check fun hpass => (h hpass).earlyKeeps).deliver

/-- An operation whose parts may check again, before they have any effect. -/
theorem rechecked_refusesEarly {α : Type} {v : α → Value} {es : List (Option Err)} {s : State} {k : State → Res α}
    (h : EarlyKeeps s (k s)) : RefusesEarly s (deliver v (check es s k)) :=
  (EarlyKeeps.check fun _ => h).deliver

/-- A facility operation, whose checks pass under the same conditions in either order (log 26). -/
theorem facility_refusesEarly {α : Type} {v : α → Value} {args : List (Option Err)} {s : State} {k : State → Res α}
    (h : carryErr s = none → (∀ e ∈ args, e = none) → Runs s (k s)) :
    RefusesEarly s (deliver v (check (facilityErrs s args) s k)) := by
  refine checked_refusesEarly fun hpass => ?_
  obtain ⟨-, hcarry, hargs⟩ := (facilityErrs_none s args).mp hpass
  exact (h hcarry hargs).failsLate

theorem execFindPath_refusesEarly (target : Tap) (source : Option Tap) (s : State) :
    RefusesEarly s (execFindPath target source s) := by
  refine EarlyKeeps.deliver ?_
  split
  · exact (FailsLate.pure _ s).earlyKeeps
  · exact .refuse _

theorem execPathToEvents_refusesEarly (path : List Tap) (s : State) : RefusesEarly s (execPathToEvents path s) := by
  refine EarlyKeeps.deliver ?_
  split
  · exact (FailsLate.pure _ s).earlyKeeps
  · exact .refuse _

theorem execWriteBits_refusesEarly (b : Bits) (s : State) : RefusesEarly s (execWriteBits b s) :=
  rechecked_refusesEarly (emit_earlyKeeps _ s)

theorem execWriteBytes_refusesEarly (b : Bits) (s : State) : RefusesEarly s (execWriteBytes b s) :=
  rechecked_refusesEarly (emit_earlyKeeps _ s)

theorem execWriteTms_refusesEarly (ev : Bits) (s : State) : RefusesEarly s (execWriteTms ev s) :=
  rechecked_refusesEarly (writeTms_earlyKeeps ev s)

theorem execReadBits_refusesEarly (n : Nat) (s : State) : RefusesEarly s (execReadBits n s) :=
  rechecked_refusesEarly ((exchange_earlyKeeps _ _ s).bind fun _ t => .pure _ t)

theorem execReadBytes_refusesEarly (n : Nat) (s : State) : RefusesEarly s (execReadBytes n s) :=
  rechecked_refusesEarly ((exchange_earlyKeeps _ _ s).bind fun _ t => .pure _ t)

theorem execShiftBytes_refusesEarly (b : Bits) (s : State) : RefusesEarly s (execShiftBytes b s) :=
  rechecked_refusesEarly ((exchange_earlyKeeps _ _ s).bind fun _ t => .pure _ t)

theorem execOpenSession_refusesEarly (vid pid idx : Nat) (dir : PinMask) (freq : Nat) (s : State) :
    RefusesEarly s (execOpenSession vid pid idx dir freq s) :=
  checked_refusesEarly fun _ => (txOpen_failsLate vid pid idx dir freq s).bind fun _ _ => .pure _ _

theorem execClose_refusesEarly (s : State) : RefusesEarly s (execClose s) :=
  checked_refusesEarly fun _ => (flushBuf_runs s).failsLate.bind fun _ t =>
    (txClose_failsLate (clearCarry t)).bind fun _ _ => .pure _ _

section
variable {s : State} (hwf : s.cfg.wf = true)
include hwf

/-- In an open session every error of `reset` is a transport failure (42_engine.md R187). -/
theorem exec_reset_refusesEarly : RefusesEarly s (exec .reset s) := by
  intro t e ht hreply hearly
  cases hsession : s.session with
  | closed =>
    have hclosed : exec .reset s = refuses (.cme .sessionClosed) s := checked_closed hsession
    rw [hclosed] at ht ⊢
    cases ht
    cases hreply
    rfl
  | opened =>
    obtain ⟨u, hu, -, -, -, -, -, hends⟩ := exec_reset_cases hwf hsession
    obtain rfl : u = t := by simpa [hu] using ht
    rw [hreply] at hends
    obtain ⟨hok, -⟩ | ⟨hte | hte, -⟩ := hends
    · cases hok
    · cases hte
      cases hearly
    · cases hte
      cases hearly

/-- `idcode` has no argument; its 32 bits are within every well-formed bound (42_engine.md R190; log 3). -/
theorem execIdcode_refusesEarly : RefusesEarly s (execIdcode s) :=
  have hread : readErr s.cfg 32 = none := (readErr_eq_none _ _).mpr (Config.readBytesMax_ge hwf)
  checked_refusesEarly fun hpass => (readDrThenIdle_runs hwf hread (hpass _ (by simp))).failsLate

/-! ## Every instruction -/

/-- Every instruction the block runs. -/
theorem exec_refusesEarly (i : Instr) (h : isFrame i = true → s.turn = .block) : RefusesEarly s (exec i s) := by
  cases i with
  | wbits b => rw [exec_wbits_of_block (h rfl)]; exact execWriteBits_refusesEarly b s
  | wbytes b => rw [exec_wbytes_of_block (h rfl)]; exact execWriteBytes_refusesEarly b s
  | wtms ev d => rw [exec_wtms_of_block (h rfl)]; exact execWriteTms_refusesEarly ev s
  | rbits n => rw [exec_rbits_of_block (h rfl)]; exact execReadBits_refusesEarly n s
  | rbytes n => rw [exec_rbytes_of_block (h rfl)]; exact execReadBytes_refusesEarly n s
  | rwbytes b => rw [exec_rwbytes_of_block (h rfl)]; exact execShiftBytes_refusesEarly b s
  | currentState => exact (FailsLate.pure _ s).earlyKeeps.deliver
  | gReset => exact (FailsLate.pure _ _).earlyKeeps.deliver
  | findPath target source => exact execFindPath_refusesEarly target source s
  | pathToEvents path => exact execPathToEvents_refusesEarly path s
  | applyEvents ev => exact (FailsLate.pure _ _).earlyKeeps.deliver
  | queue f => exact rechecked_refusesEarly (queueBytes_earlyKeeps f s)
  | flush => exact checked_refusesEarly fun _ => (flushBuf_runs s).failsLate
  | writeBits b => exact execWriteBits_refusesEarly b s
  | writeBytes b => exact execWriteBytes_refusesEarly b s
  | write b => exact rechecked_refusesEarly (writeSeq_earlyKeeps hwf b)
  | writeTms ev => exact execWriteTms_refusesEarly ev s
  | readBits n => exact execReadBits_refusesEarly n s
  | readBytes n => exact execReadBytes_refusesEarly n s
  | read n => exact rechecked_refusesEarly (readSeq_earlyKeeps hwf n)
  | shiftBytes b => exact execShiftBytes_refusesEarly b s
  | openSession vid pid idx dir freq => exact execOpenSession_refusesEarly vid pid idx dir freq s
  | close => exact execClose_refusesEarly s
  | changeState t => exact checked_refusesEarly fun _ => (changeState_runs_of_wf hwf t).failsLate
  | goIdle => exact checked_refusesEarly fun _ => (changeState_runs_of_wf hwf .rti).failsLate
  | writeIr b =>
    exact checked_refusesEarly fun hpass => (writeReg_runs hwf _ _ (hpass _ (by simp)) (hpass _ (by simp))).failsLate
  | writeDr b =>
    exact checked_refusesEarly fun hpass => (writeReg_runs hwf _ _ (hpass _ (by simp)) (hpass _ (by simp))).failsLate
  | readDr n =>
    exact checked_refusesEarly fun hpass => (readDr_runs hwf (hpass _ (by simp)) (hpass _ (by simp))).failsLate
  | reset => exact exec_reset_refusesEarly hwf
  | idcode => exact execIdcode_refusesEarly hwf
  | preload b =>
    exact facility_refusesEarly fun hcarry hargs =>
      loadAndWrite_runs hwf (hargs _ (by simp)) (hargs (writeErr s.cfg b) (by simp)) hcarry
  | sample =>
    exact facility_refusesEarly fun hcarry hargs =>
      loadAndRead_runs hwf (hargs (writeErr s.cfg s.prov.sample) (by simp)) (hargs _ (by simp)) hcarry
  | extest b =>
    exact facility_refusesEarly fun hcarry hargs =>
      loadAndWrite_runs hwf (hargs _ (by simp)) (hargs (writeErr s.cfg b) (by simp)) hcarry
  | readback => exact facility_refusesEarly fun hcarry hargs => readDrThenIdle_runs hwf (hargs _ (by simp)) hcarry

end

/-- Settles O44: an early error of any instruction is delivered in the state it began in. -/
theorem earlyErrorsHaveNoEffect : Obligations.EarlyErrorsHaveNoEffect := by
  unfold Obligations.EarlyErrorsHaveNoEffect
  intro s t i e hwf hturn ht hreply hearly
  exact exec_refusesEarly hwf i hturn t e ht hreply hearly

end Sys2Proof.Machine

/-! # Decode and encode agree (spec/30_encoding.md)

A frame's opcode leads to the decoder of its kind, which reads the fields back. A line is a name and words; the name is
found in the table of operations, whose names are distinct, and its reader reads the words back. -/

namespace Sys2Proof

/-! ## Frames -/

theorem decodeWbits_encode {b : Bits} (rest : List Byte) (h : 1 ≤ b.length ∧ b.length ≤ 8) :
    decodeWbits (len8 b.length :: pack8 b :: rest) = .ok (.wbits b, rest) := by
  have hcount := len8_toNat b.length (by omega)
  rw [decodeWbits, if_pos (by omega), hcount, Nat.sub_add_cancel h.1, unpack8_pack8 b h.2]

/-- Bits below those of the events are read back, whatever stands in bit 7. -/
theorem unpack8_wtmsPayload {ev : Bits} (d : Bool) (h : ev.length ≤ 7) :
    unpack8 (pack8 ev ||| (if d then 0x80#8 else 0x00#8)) ev.length = ev := by
  refine Eq.trans ?_ (unpack8_pack8 ev (by omega))
  refine List.map_congr_left fun i hi => ?_
  have hi : i < 7 := Nat.lt_of_lt_of_le (List.mem_range.mp hi) h
  have hzero : (if d then 0x80#8 else 0x00#8).getLsbD i = false := by
    cases d
    · simp
    · clear * - hi
      decide +revert
  rw [BitVec.getLsbD_or, hzero, Bool.or_false]

theorem decodeWtms_encode {ev : Bits} (d : Bool) (rest : List Byte) (h : 1 ≤ ev.length ∧ ev.length ≤ 7) :
    decodeWtms (len8 ev.length :: (pack8 ev ||| (if d then 0x80#8 else 0x00#8)) :: rest) = .ok (.wtms ev d, rest) := by
  have hcount := len8_toNat ev.length (by omega)
  rw [decodeWtms, if_pos (by omega), hcount, Nat.sub_add_cancel h.1, unpack8_wtmsPayload d h.2,
    Machine.wtmsPayload_bit7 d h.2]

theorem decodeRbits_encode {n : Nat} (rest : List Byte) (h : 1 ≤ n ∧ n ≤ 8) :
    decodeRbits (len8 n :: rest) = .ok (.rbits n, rest) := by
  have hcount := len8_toNat n (by omega)
  rw [decodeRbits, if_pos (by omega), hcount, Nat.sub_add_cancel h.1]

theorem decodeRbytes_encode {n : Nat} (rest : List Byte) (h : 1 ≤ n ∧ n ≤ 65536) :
    decodeRbytes (len16 n ++ rest) = .ok (.rbytes n, rest) := by
  rw [len16, List.cons_append, List.cons_append, List.nil_append, decodeRbytes, countOf16_len16 n h.1 h.2]

theorem decodePayload_encode {c : Config} {b : Bits} (mk : Bits → Frame) (rest : List Byte) (hc : c.wf = true)
    (hb : wholeBytes (c.maxFrame - 3) b = true) :
    decodePayload mk (len16 (b.length / 8) ++ packBytes b ++ rest) = .ok (mk b, rest) := by
  have hcount := countOf16_len16_of_wholeBytes hc hb
  have hwhole : b.length % 8 = 0 := by
    simp only [wholeBytes, Bool.and_eq_true, decide_eq_true_eq] at hb
    exact hb.1.2
  have hlen := packBytes_length b
  rw [len16, List.append_assoc, List.cons_append, List.cons_append, List.nil_append, decodePayload, hcount,
    if_neg (by rw [List.length_append]; omega), ← hlen, List.take_left, List.drop_left,
    unpackBytes_packBytes b hwhole]

theorem Config.writeBitsMax_le {c : Config} (hc : c.wf = true) : c.writeBitsMax ≤ 8 := by
  simp only [Config.wf, Bool.and_eq_true, decide_eq_true_eq] at hc
  simp only [hc]

theorem Config.readBitsMax_le {c : Config} (hc : c.wf = true) : c.readBitsMax ≤ 8 := by
  simp only [Config.wf, Bool.and_eq_true, decide_eq_true_eq] at hc
  simp only [hc]

theorem Config.readBytesMax_le {c : Config} (hc : c.wf = true) : c.readBytesMax ≤ 65536 := by
  simp only [Config.wf, Bool.and_eq_true, decide_eq_true_eq] at hc
  simp only [hc]

/-- The decoder that an opcode leads to (R81). -/
def Frame.decoder : Frame → List Byte → Except Reject (Frame × List Byte)
  | .wbits _ => decodeWbits
  | .wbytes _ => decodePayload .wbytes
  | .wtms _ _ => decodeWtms
  | .rbits _ => decodeRbits
  | .rbytes _ => decodeRbytes
  | .rwbytes _ => decodePayload .rwbytes

/-- The opcodes are distinct, so each leads to its own decoder (R79, R81). -/
theorem decodeFrame_opcode {c : Config} (hc : c.wf = true) (f : Frame) (bs : List Byte) :
    decodeFrame c (f.opcode c :: bs) = f.decoder bs := by
  have hd := Config.opcodes_nodup hc
  simp only [Config.opcodes, List.nodup_cons, List.mem_cons, List.not_mem_nil, not_or, or_false] at hd
  cases f <;> simp [decodeFrame, Frame.opcode, Frame.decoder, hd, eq_comm]

/-- Decoding the bytes of a frame gives it back, whatever follows. -/
theorem decodeFrame_encodeFrame {c : Config} {f : Frame} (rest : List Byte) (hc : c.wf = true)
    (hf : f.wellFormed c = true) : decodeFrame c (encodeFrame c f ++ rest) = .ok (f, rest) := by
  have hframe := decodeFrame_opcode hc f
  cases f with
  | wbits b =>
    have hmax := Config.writeBitsMax_le hc
    simp only [Frame.wellFormed, decide_eq_true_eq] at hf
    exact (hframe _).trans (decodeWbits_encode rest ⟨hf.1, by omega⟩)
  | wbytes b => exact (hframe _).trans (decodePayload_encode .wbytes rest hc hf)
  | wtms ev d =>
    have hmax := Config.tmsMaxEvents_le hc
    simp only [Frame.wellFormed, decide_eq_true_eq] at hf
    exact (hframe _).trans (decodeWtms_encode d rest ⟨hf.1, by omega⟩)
  | rbits n =>
    have hmax := Config.readBitsMax_le hc
    simp only [Frame.wellFormed, decide_eq_true_eq] at hf
    exact (hframe _).trans (decodeRbits_encode rest ⟨hf.1, by omega⟩)
  | rbytes n =>
    have hmax := Config.readBytesMax_le hc
    simp only [Frame.wellFormed, decide_eq_true_eq] at hf
    exact (hframe _).trans (decodeRbytes_encode rest ⟨hf.1, by omega⟩)
  | rwbytes b => exact (hframe _).trans (decodePayload_encode .rwbytes rest hc hf)

/-- Settles O5: the opcode leads to the decoder of the frame's kind, which reads the fields back. -/
theorem frameRoundTrip : Obligations.FrameRoundTrip := fun _ _ rest hc hf => decodeFrame_encodeFrame rest hc hf

/-! ## Operands as text (R88) -/

theorem mapM_map_of_forall {α β : Type} {read : β → Option α} {show' : α → β} {l : List α}
    (h : ∀ x ∈ l, read (show' x) = some x) : (l.map show').mapM read = some l := by
  induction l with
  | nil => rfl
  | cons x l ih =>
    rw [List.map_cons, List.mapM_cons, h x (by simp), ih fun y hy => h y (by simp [hy])]
    rfl

/-- A character that ends neither a line nor its text nor a word. -/
def plainChar (ch : Byte) : Bool := decide (ch ≠ chNewline ∧ ch ≠ chSemicolon ∧ ch ≠ chSpace)

theorem plainChar_iff {ch : Byte} : plainChar ch = true ↔ ch ≠ chNewline ∧ ch ≠ chSemicolon ∧ ch ≠ chSpace :=
  decide_eq_true_iff

/-- A word of a line: not empty, and of plain characters. -/
def Word (w : List Byte) : Prop := w ≠ [] ∧ ∀ ch ∈ w, plainChar ch = true

theorem word_map {α : Type} {f : α → Byte} {l : List α} (hne : l ≠ []) (h : ∀ x ∈ l, plainChar (f x) = true) :
    Word (l.map f) :=
  ⟨by simpa using hne, List.forall_mem_map.mpr h⟩

theorem word_emptyText : Word emptyText := ⟨by decide, by decide⟩

/-- Words with a space between each two. -/
abbrev spaced (ws : List (List Byte)) : List Byte := [chSpace].intercalate ws

theorem spaced_splitOn {ws : List (List Byte)} (hne : ws ≠ []) (h : ∀ w ∈ ws, Word w) :
    (spaced ws).splitOn chSpace = ws :=
  List.splitOn_intercalate _ (fun w hw hmem => absurd ((h w hw).2 _ hmem) (by decide)) hne

/-! ### Bits -/

theorem word_showBits (b : Bits) : Word (showBits b) := by
  rw [showBits]
  split
  · exact word_emptyText
  · next hne => exact word_map hne fun x _ => by cases x <;> decide

theorem parseBits_showBits (b : Bits) : parseBits (showBits b) = some b := by
  cases b with
  | nil => rfl
  | cons x b =>
    have hempty : (x :: b).map showBit ≠ emptyText := by
      intro h
      cases x <;> simp [emptyText, showBit, chOpen] at h
    rw [showBits, if_neg (by simp), parseBits, if_neg hempty, if_neg (by simp)]
    exact mapM_map_of_forall fun y _ => by cases y <;> rfl

/-! ### Naturals -/

theorem digitsRev_lt {fuel n d : Nat} (h : d ∈ digitsRev fuel n) : d < 10 := by
  induction fuel generalizing n with
  | zero => cases h
  | succ fuel ih =>
    rw [digitsRev] at h
    split at h
    · next hn => simpa [List.mem_singleton.mp h] using hn
    · obtain rfl | h := List.mem_cons.mp h
      · exact Nat.mod_lt _ (by decide)
      · exact ih h

theorem digitsRev_ne_nil (fuel n : Nat) : digitsRev (fuel + 1) n ≠ [] := by
  rw [digitsRev]
  split <;> simp

theorem natOfDigits_digitsRev {fuel n : Nat} (h : n < fuel) : natOfDigits (digitsRev fuel n).reverse = n := by
  rw [natOfDigits, List.foldl_reverse]
  induction fuel generalizing n with
  | zero => omega
  | succ fuel ih =>
    rw [digitsRev]
    split
    · simp
    · rw [List.foldr_cons, ih (by omega)]
      omega

theorem showDigit_plain : ∀ d < 10, plainChar (showDigit d) = true := by decide

theorem readDigit_showDigit : ∀ d < 10, readDigit (showDigit d) = some d := by decide

theorem showNat_eq (n : Nat) : showNat n = (digitsRev (n + 1) n).reverse.map showDigit := List.map_reverse.symm

theorem word_showNat (n : Nat) : Word (showNat n) := by
  rw [showNat_eq]
  exact word_map (by simpa using digitsRev_ne_nil n n) fun d hd =>
    showDigit_plain d (digitsRev_lt (List.mem_reverse.mp hd))

theorem parseNat_showNat (n : Nat) : parseNat (showNat n) = some n := by
  rw [parseNat, if_neg (word_showNat n).1, showNat_eq,
    mapM_map_of_forall fun d hd => readDigit_showDigit d (digitsRev_lt (List.mem_reverse.mp hd)), Option.map_some,
    natOfDigits_digitsRev (Nat.lt_succ_self n)]

theorem parseMask_showNat {c : Config} {m : PinMask} (h : m.fits c.dirWidth = true) :
    parseMask c (showNat m) = some m := by
  rw [parseMask, parseNat_showNat, Option.bind_some, if_pos h]

/-! ### TAP states and paths -/

theorem word_tapName (t : Tap) : Word (tapName t) := by
  cases t <;> exact ⟨by decide, by decide⟩

theorem parseTap_tapName (t : Tap) : parseTap (tapName t) = some t := by cases t <;> decide

theorem tapName_no_comma (t : Tap) : chComma ∉ tapName t := by cases t <;> decide

theorem dropWhile_space_of_word {w : List Byte} (h : Word w) : w.dropWhile (· == chSpace) = w := by
  obtain ⟨hne, hplain⟩ := h
  cases w with
  | nil => exact absurd rfl hne
  | cons ch w => simp [(plainChar_iff.mp (hplain ch (by simp))).2.2]

theorem mem_intercalate {sep : Byte} {ws : List (List Byte)} {ch : Byte} (h : ch ∈ [sep].intercalate ws) :
    ch = sep ∨ ∃ w ∈ ws, ch ∈ w := by
  induction ws with
  | nil => cases h
  | cons w ws ih =>
    cases ws with
    | nil => exact .inr ⟨w, by simp, by simpa using h⟩
    | cons v ws =>
      rw [List.intercalate_cons_cons, List.mem_append, List.mem_append] at h
      obtain (h | h) | h := h
      · exact .inr ⟨w, by simp, h⟩
      · exact .inl (List.mem_singleton.mp h)
      · obtain h | ⟨u, hu, h⟩ := ih h
        · exact .inl h
        · exact .inr ⟨u, by simp [hu], h⟩

theorem word_showPath (p : List Tap) : Word (showPath p) := by
  refine ⟨by simp [showPath], fun ch hch => ?_⟩
  simp only [showPath, List.mem_cons, List.mem_append, List.not_mem_nil, or_false] at hch
  obtain rfl | hch | rfl := hch
  · decide
  · obtain rfl | ⟨w, hw, hch⟩ := mem_intercalate hch
    · decide
    · obtain ⟨t, -, rfl⟩ := List.mem_map.mp hw
      exact (word_tapName t).2 ch hch
  · decide

theorem parsePath_showPath (p : List Tap) : parsePath (showPath p) = some p := by
  cases p with
  | nil => rfl
  | cons t p =>
    have hinner : (((showPath (t :: p)).drop 1).dropLast).splitOn chComma = (t :: p).map tapName := by
      rw [showPath, List.drop_one, List.tail_cons, List.dropLast_concat]
      refine List.splitOn_intercalate _ (fun w hw => ?_) (by simp)
      obtain ⟨u, -, rfl⟩ := List.mem_map.mp hw
      exact tapName_no_comma u
    have hends : (showPath (t :: p)).head? = some chOpen ∧ (showPath (t :: p)).getLast? = some chClose := by
      simp [showPath, List.getLast?_cons]
    have hempty : showPath (t :: p) ≠ emptyText := by
      intro h
      rw [h] at hinner
      have hnone : ((emptyText.drop 1).dropLast).splitOn chComma = [[]] := List.splitOn_nil _
      obtain ⟨hnil, -⟩ := List.cons.inj (hnone.symm.trans hinner)
      exact (word_tapName t).1 hnil.symm
    have hmore : (p.map tapName).map (·.dropWhile (· == chSpace)) = p.map tapName := by
      rw [List.map_map]
      exact List.map_congr_left fun u _ => dropWhile_space_of_word (word_tapName u)
    rw [parsePath, if_neg hempty, if_pos hends, hinner, List.map_cons]
    simp only [hmore, ← List.map_cons]
    exact mapM_map_of_forall fun u _ => parseTap_tapName u

theorem parseTarget_showTarget (target : Tap) (source : Option Tap) :
    parseTarget (showTarget target source) = some (target, source) := by
  cases source with
  | none =>
    have hsplit : (tapName target).splitOn chSpace = [tapName target] := by
      simpa using spaced_splitOn (ws := [tapName target]) (by simp) (by simpa using word_tapName target)
    rw [showTarget, parseTarget, hsplit]
    simp [parseTap_tapName]
  | some source =>
    have hfrom : Word (ascii ['f', 'r', 'o', 'm']) := ⟨by decide, by decide⟩
    rw [showTarget, parseTarget, spaced_splitOn (by simp) (by simp [word_tapName, hfrom])]
    simp [parseTap_tapName]

/-! ### Bytes -/

theorem showHex_plain : ∀ n < 16, plainChar (showHex n) = true := by decide

theorem readHex_showHex : ∀ n < 16, readHex (showHex n) = some n := by decide

theorem showHex_ne_open : ∀ n < 16, showHex n ≠ chOpen := by decide

theorem word_showHexByte (b : Byte) : Word (showHexByte b) := by
  have hhi := showHex_plain (b.toNat / 16) (by omega)
  have hlo := showHex_plain (b.toNat % 16) (by omega)
  exact ⟨by simp [showHexByte], by simp [showHexByte, hhi, hlo]⟩

theorem parseHexByte_showHexByte (b : Byte) : parseHexByte (showHexByte b) = some b := by
  have hhi := readHex_showHex (b.toNat / 16) (by omega)
  have hlo := readHex_showHex (b.toNat % 16) (by omega)
  simp [showHexByte, parseHexByte, hhi, hlo, Nat.div_add_mod]

theorem parseHexBytes_showHexBytes (f : List Byte) : parseHexBytes (showHexBytes f) = some f := by
  cases f with
  | nil => rfl
  | cons b f =>
    have hsplit : (spaced ((b :: f).map showHexByte)).splitOn chSpace = (b :: f).map showHexByte :=
      spaced_splitOn (by simp) (by simp [word_showHexByte])
    have hempty : spaced ((b :: f).map showHexByte) ≠ emptyText := by
      intro h
      have hone : emptyText.splitOn chSpace = [emptyText] := by decide
      rw [h, hone, List.map_cons] at hsplit
      obtain ⟨hbyte, -⟩ := List.cons.inj hsplit
      obtain ⟨hhead, -⟩ := List.cons.inj hbyte
      exact showHex_ne_open _ (by omega) hhead.symm
    rw [showHexBytes, if_neg (by simp), parseHexBytes, if_neg hempty, hsplit]
    exact mapM_map_of_forall fun x _ => parseHexByte_showHexByte x

theorem parseOpen_showOpen {c : Config} (vid pid idx freq : Nat) {dir : PinMask} (h : dir.fits c.dirWidth = true) :
    parseOpen c (showOpen vid pid idx dir freq) = some (.openSession vid pid idx dir freq) := by
  rw [showOpen, parseOpen, spaced_splitOn (by simp) (by simp [word_showNat])]
  simp [parseNat_showNat, parseMask_showNat h]

/-! ## Lines -/

/-- An operand as it stands in a line: no character of it ends the line or its text, and no space is at its ends. -/
structure OperandText (t : List Byte) : Prop where
  ne_nil : t ≠ []
  chars : ∀ ch ∈ t, ch ≠ chNewline ∧ ch ≠ chSemicolon
  head : t.head? ≠ some chSpace
  last : t.getLast? ≠ some chSpace

theorem Word.operandText {w : List Byte} (h : Word w) : OperandText w where
  ne_nil := h.1
  chars ch hch := by
    obtain ⟨hnewline, hsemicolon, -⟩ := plainChar_iff.mp (h.2 ch hch)
    exact ⟨hnewline, hsemicolon⟩
  head hsp := absurd (h.2 _ (List.mem_of_mem_head? hsp)) (by decide)
  last hsp := absurd (h.2 _ (List.mem_of_getLast? hsp)) (by decide)

theorem operandText_spaced {ws : List (List Byte)} (hne : ws ≠ []) (h : ∀ w ∈ ws, Word w) : OperandText (spaced ws) := by
  induction ws with
  | nil => exact absurd rfl hne
  | cons w ws ih =>
    have hw := (h w (by simp)).operandText
    cases ws with
    | nil => simpa [spaced] using hw
    | cons v ws =>
      have hrest := ih (by simp) fun u hu => h u (by simp [hu])
      have hcons : spaced (w :: v :: ws) = w ++ [chSpace] ++ spaced (v :: ws) := List.intercalate_cons_cons
      rw [hcons]
      refine ⟨by simp, fun ch hch => ?_, ?_, ?_⟩
      · simp only [List.mem_append, List.mem_singleton] at hch
        obtain (hch | rfl) | hch := hch
        · exact hw.chars ch hch
        · decide
        · exact hrest.chars ch hch
      · rw [List.append_assoc, List.head?_append_of_ne_nil _ hw.ne_nil]
        exact hw.head
      · rw [List.getLast?_append_of_ne_nil _ hrest.ne_nil]
        exact hrest.last

theorem operandText_showTarget (target : Tap) (source : Option Tap) : OperandText (showTarget target source) := by
  cases source with
  | none => exact (word_tapName target).operandText
  | some source =>
    have hfrom : Word (ascii ['f', 'r', 'o', 'm']) := ⟨by decide, by decide⟩
    exact operandText_spaced (by simp) (by simp [word_tapName, hfrom])

theorem operandText_showHexBytes (f : List Byte) : OperandText (showHexBytes f) := by
  rw [showHexBytes]
  split
  · exact word_emptyText.operandText
  · next hne => exact operandText_spaced (by simpa using hne) (by simp [word_showHexByte])

theorem operandText_showOpen (vid pid idx : Nat) (dir : PinMask) (freq : Nat) :
    OperandText (showOpen vid pid idx dir freq) :=
  operandText_spaced (by simp) (by simp [word_showNat])

/-- A list cut before the first element that fails the test. -/
theorem takeWhile_dropWhile_first {p : Byte → Bool} {l r : List Byte} {y : Byte} (hl : ∀ x ∈ l, p x = true)
    (hy : p y = false) : (l ++ y :: r).takeWhile p = l ∧ (l ++ y :: r).dropWhile p = y :: r := by
  rw [List.takeWhile_append_of_pos hl, List.dropWhile_append_of_pos hl]
  simp [hy]

theorem lineText_eq_self {line : List Byte} (hsemicolon : ∀ ch ∈ line, ch ≠ chSemicolon)
    (hlast : line.getLast? ≠ some chSpace) : lineText line = line := by
  have htake : line.takeWhile (· != chSemicolon) = line := List.takeWhile_eq_self_iff.mpr (by simpa using hsemicolon)
  have hdrop : line.reverse.dropWhile (· == chSpace) = line.reverse := by
    rw [← List.head?_reverse] at hlast
    cases hrev : line.reverse with
    | nil => rfl
    | cons ch more =>
      rw [hrev] at hlast
      exact List.dropWhile_cons_of_neg (by simpa using hlast)
  rw [lineText, htake, hdrop, List.reverse_reverse]

theorem Word.ne_space {w : List Byte} (h : Word w) : ∀ ch ∈ w, (ch != chSpace) = true := by
  intro ch hch
  simpa using (plainChar_iff.mp (h.2 ch hch)).2.2

theorem decodeLine_name {name : List Byte} (c : Config) (h : Word name) : decodeLine c name = decodeOp c name [] := by
  have htext := lineText_eq_self (fun ch hch => (h.operandText.chars ch hch).2) h.operandText.last
  have htake : name.takeWhile (· != chSpace) = name := List.takeWhile_eq_self_iff.mpr h.ne_space
  have hdrop : name.dropWhile (· != chSpace) = [] := List.dropWhile_eq_nil_iff.mpr h.ne_space
  rw [decodeLine, htext, htake, hdrop]
  rfl

theorem decodeLine_name_operand {name arg : List Byte} (c : Config) (h : Word name) (harg : OperandText arg) :
    decodeLine c (name ++ chSpace :: arg) = decodeOp c name arg := by
  have htext : lineText (name ++ chSpace :: arg) = name ++ chSpace :: arg := by
    refine lineText_eq_self (fun ch hch => ?_) ?_
    · obtain hch | rfl | hch := by simpa using hch
      · exact (h.operandText.chars ch hch).2
      · decide
      · exact (harg.chars ch hch).2
    · rw [List.append_cons, List.getLast?_append_of_ne_nil _ harg.ne_nil]
      exact harg.last
  obtain ⟨htake, hdrop⟩ := takeWhile_dropWhile_first (r := arg) h.ne_space (y := chSpace) (by decide)
  have hspaces : (chSpace :: arg).dropWhile (· == chSpace) = arg := by
    rw [List.dropWhile_cons_of_pos (by simp)]
    cases arg with
    | nil => rfl
    | cons ch more => exact List.dropWhile_cons_of_neg (by simpa using harg.head)
  rw [decodeLine, htext, htake, hdrop, hspaces]

/-- A line is read up to its newline (R88). -/
theorem decode_line {c : Config} {line : List Byte} {i : Instr} (rest : List Byte)
    (hnewline : ∀ ch ∈ line, ch ≠ chNewline) (h : decodeLine c line = .ok i) :
    decode c .line (line ++ chNewline :: rest) = .ok (i, rest) := by
  obtain ⟨htake, hdrop⟩ := takeWhile_dropWhile_first (p := (· != chNewline)) (l := line) (r := rest)
    (by simpa using hnewline) (y := chNewline) (by decide)
  rw [decode, htake, hdrop, h]
  rfl

/-! ## The table of operations -/

/-- In a table of distinct keys the row of a key is found. -/
theorem find?_of_nodup_keys {α β : Type} [BEq α] [LawfulBEq α] {table : List (α × β)} {row : α × β}
    (hkeys : (table.map Prod.fst).Nodup) (h : row ∈ table) : table.find? (fun r => r.1 == row.1) = some row := by
  induction table with
  | nil => cases h
  | cons r table ih =>
    rw [List.map_cons, List.nodup_cons] at hkeys
    obtain ⟨hfirst, hkeys⟩ := hkeys
    obtain rfl | h := List.mem_cons.mp h
    · simp
    · have hne : r.1 ≠ row.1 := fun heq => hfirst (heq ▸ List.mem_map_of_mem h)
      rw [List.find?_cons_of_neg (by simpa using hne), ih hkeys h]

/-- The names of the operations (R85). -/
def opNames : List (List Byte) := (opTable Config.default).map Prod.fst

theorem opTable_names (c : Config) : (opTable c).map Prod.fst = opNames := rfl

theorem opNames_nodup : opNames.Nodup := by decide

theorem opNames_words : ∀ name ∈ opNames, Word name := by
  have hne : ∀ name ∈ opNames, name ≠ [] := by decide
  have hplain : ∀ name ∈ opNames, ∀ ch ∈ name, plainChar ch = true := by decide
  exact fun name h => ⟨hne name h, hplain name h⟩

section
variable {c : Config} {name arg : List Byte} {reader : List Byte → Option Instr} {i : Instr}
  (hrow : (name, reader) ∈ opTable c)
include hrow

theorem word_of_mem_opTable : Word name :=
  opNames_words name (opTable_names c ▸ List.mem_map_of_mem hrow)

theorem decodeOp_of_mem (hread : reader arg = some i) : decodeOp c name arg = .ok i := by
  have hfind : (opTable c).find? (fun row => row.1 == name) = some (name, reader) :=
    find?_of_nodup_keys (opTable_names c ▸ opNames_nodup) hrow
  rw [decodeOp, hfind]
  simp only [hread]

theorem decode_line0 (rest : List Byte) (hread : reader [] = some i) :
    decode c .line (line0 name ++ rest) = .ok (i, rest) := by
  have hname := word_of_mem_opTable hrow
  rw [line0, List.append_assoc, List.singleton_append]
  refine decode_line rest (fun ch hch => (hname.operandText.chars ch hch).1) ?_
  rw [decodeLine_name c hname, decodeOp_of_mem hrow hread]

theorem decode_line1 (rest : List Byte) (harg : OperandText arg) (hread : reader arg = some i) :
    decode c .line (line1 name arg ++ rest) = .ok (i, rest) := by
  have hname := word_of_mem_opTable hrow
  have hline : line1 name arg ++ rest = (name ++ chSpace :: arg) ++ chNewline :: rest := by simp [line1]
  rw [hline]
  refine decode_line rest (fun ch hch => ?_) ?_
  · obtain hch | rfl | hch := by simpa using hch
    · exact (hname.operandText.chars ch hch).1
    · decide
    · exact (harg.chars ch hch).1
  · rw [decodeLine_name_operand c hname harg, decodeOp_of_mem hrow hread]

end

/-! ## Every instruction -/

theorem decode_frame {c : Config} {f : Frame} (rest : List Byte) (hc : c.wf = true) (hf : f.wellFormed c = true) :
    decode c .frame (encodeFrame c f ++ rest) = .ok (f.toInstr, rest) := by
  rw [decode, decodeFrame_encodeFrame rest hc hf]

section
variable {c : Config} {name : List Byte} (rest : List Byte)

theorem decode_bareLine {i : Instr} (h : (name, fun a => noOperand a i) ∈ opTable c) :
    decode c .line (line0 name ++ rest) = .ok (i, rest) :=
  decode_line0 h rest rfl

theorem decode_bitsLine {mk : Bits → Instr} (b : Bits) (h : (name, fun a => (parseBits a).map mk) ∈ opTable c) :
    decode c .line (line1 name (showBits b) ++ rest) = .ok (mk b, rest) :=
  decode_line1 h rest (word_showBits b).operandText (by simp [parseBits_showBits])

theorem decode_natLine {mk : Nat → Instr} (n : Nat) (h : (name, fun a => (parseNat a).map mk) ∈ opTable c) :
    decode c .line (line1 name (showNat n) ++ rest) = .ok (mk n, rest) :=
  decode_line1 h rest (word_showNat n).operandText (by simp [parseNat_showNat])

end

/-- Settles O6: a frame by `decodeFrame_encodeFrame`; a line by its row of the table and the reader of its operand. -/
theorem instructionRoundTrip : Obligations.InstructionRoundTrip := by
  unfold Obligations.InstructionRoundTrip
  intro c i rest hc hi
  cases i with
  | wbits b => exact decode_frame (f := .wbits b) rest hc hi
  | wbytes b => exact decode_frame (f := .wbytes b) rest hc hi
  | wtms ev d => exact decode_frame (f := .wtms ev d) rest hc hi
  | rbits n => exact decode_frame (f := .rbits n) rest hc hi
  | rbytes n => exact decode_frame (f := .rbytes n) rest hc hi
  | rwbytes b => exact decode_frame (f := .rwbytes b) rest hc hi
  | currentState => exact decode_bareLine rest (by simp [opTable])
  | gReset => exact decode_bareLine rest (by simp [opTable])
  | findPath target source =>
    exact decode_line1 (reader := fun a => (parseTarget a).map fun p => .findPath p.1 p.2) (by simp [opTable]) rest
      (operandText_showTarget target source) (by simp [parseTarget_showTarget])
  | pathToEvents path =>
    exact decode_line1 (reader := fun a => (parsePath a).map .pathToEvents) (by simp [opTable]) rest
      (word_showPath path).operandText (by simp [parsePath_showPath])
  | applyEvents ev => exact decode_bitsLine rest ev (by simp [opTable])
  | queue f =>
    exact decode_line1 (reader := fun a => (parseHexBytes a).map .queue) (by simp [opTable]) rest
      (operandText_showHexBytes f) (by simp [parseHexBytes_showHexBytes])
  | flush => exact decode_bareLine rest (by simp [opTable])
  | writeBits b => exact decode_bitsLine rest b (by simp [opTable])
  | writeBytes b => exact decode_bitsLine rest b (by simp [opTable])
  | write b => exact decode_bitsLine rest b (by simp [opTable])
  | writeTms ev => exact decode_bitsLine rest ev (by simp [opTable])
  | readBits n => exact decode_natLine rest n (by simp [opTable])
  | readBytes n => exact decode_natLine rest n (by simp [opTable])
  | read n => exact decode_natLine rest n (by simp [opTable])
  | shiftBytes b => exact decode_bitsLine rest b (by simp [opTable])
  | openSession vid pid idx dir freq =>
    exact decode_line1 (reader := parseOpen c) (by simp [opTable]) rest
      (operandText_showOpen vid pid idx dir freq) (parseOpen_showOpen vid pid idx freq hi)
  | close => exact decode_bareLine rest (by simp [opTable])
  | changeState t =>
    exact decode_line1 (reader := fun a => (parseTap a).map .changeState) (by simp [opTable]) rest
      (word_tapName t).operandText (by simp [parseTap_tapName])
  | goIdle => exact decode_bareLine rest (by simp [opTable])
  | writeIr b => exact decode_bitsLine rest b (by simp [opTable])
  | writeDr b => exact decode_bitsLine rest b (by simp [opTable])
  | readDr n => exact decode_natLine rest n (by simp [opTable])
  | reset => exact decode_bareLine rest (by simp [opTable])
  | idcode => exact decode_bareLine rest (by simp [opTable])
  | preload b => exact decode_bitsLine rest b (by simp [opTable])
  | sample => exact decode_bareLine rest (by simp [opTable])
  | extest b => exact decode_bitsLine rest b (by simp [opTable])
  | readback => exact decode_bareLine rest (by simp [opTable])

/-- Settles O4: each word is the bytes of its frame. -/
theorem specFramesDecode : Obligations.SpecFramesDecode := by
  unfold Obligations.SpecFramesDecode
  decide

end Sys2Proof

/-! # What a step does (spec/10_state.md R27, spec/60_exceptions.md R265)

A step is its fetch: a frame at the head of the wire, else bytes there that are no frame, else the host's request. -/

namespace Sys2Proof.Machine

section
variable {s : State}

theorem fetch_of_frame {f : Frame} {rest : List Byte} (h : decodeFrame s.cfg s.link.stream = .ok (f, rest)) :
    fetch s = .instr f.toInstr (s.fetchFrame rest.length) := by
  rw [fetch, h]

theorem fetch_of_truncated (h : decodeFrame s.cfg s.link.stream = .error .truncated) : fetch s = fetchFromHost s := by
  rw [fetch, h]

theorem fetch_of_unknownOpcode (h : decodeFrame s.cfg s.link.stream = .error .unknownOpcode) :
    fetch s = .lost { s with link := s.link.discard s.cfg } := by
  rw [fetch, h]

theorem fetch_of_reservedLength (h : decodeFrame s.cfg s.link.stream = .error .reservedLength) :
    fetch s = .lost { s with link := s.link.garble s.cfg } := by
  rw [fetch, h]

end

/-- Taking a decoded frame off the wire leaves the bytes after it (R221). -/
theorem keep_stream_of_decodeFrame {c : Config} {l : Link} {f : Frame} {rest : List Byte}
    (h : decodeFrame c l.stream = .ok (f, rest)) : (l.keep rest.length).stream = rest := by
  obtain ⟨k, hrest, hk⟩ := decodeFrame_rest h
  have hlen : rest.length = l.stream.length - (k + 1) := by rw [hrest, List.length_drop]
  rw [hlen, keep_stream hk, ← hrest]

/-- Settles O2: the two sources a fetch finds an instruction in. -/
theorem stepRunsDecodedInstruction : Obligations.StepRunsDecodedInstruction := by
  unfold Obligations.StepRunsDecodedInstruction
  refine ⟨fun s f rest hframe => ⟨(s.link.keep rest.length).wire, keep_stream_of_decodeFrame hframe, ?_⟩,
    fun s r rs i hwire hrequests hdecode => ?_⟩
  · rw [step, fetch_of_frame hframe]
    rfl
  · rw [step, fetch_of_truncated hwire, fetchFromHost, hrequests]
    simp only [hdecode]
    rfl

/-- Settles O3: the other ends of a fetch. -/
theorem stepWithoutInstruction : Obligations.StepWithoutInstruction := by
  unfold Obligations.StepWithoutInstruction
  refine ⟨fun s hwire => ⟨fun hidle => ?_, fun r rs hrequests => ⟨fun why hbad => ?_, fun i x rest hmore => ?_⟩⟩,
    fun s b bs ws hwire hopcode => ?_, fun s hreserved => ⟨s.link.garble s.cfg, ?_, rfl, rfl, rfl, rfl⟩⟩
  · rw [step, fetch_of_truncated hwire, fetchFromHost, hidle]
  · rw [step, fetch_of_truncated hwire, fetchFromHost, hrequests]
    simp only [hbad]
  · rw [step, fetch_of_truncated hwire, fetchFromHost, hrequests]
    simp only [hmore]
  · have hunknown : decodeFrame s.cfg s.link.stream = .error .unknownOpcode := by
      simp only [Config.opcodes, List.mem_cons, List.not_mem_nil, or_false, not_or] at hopcode
      simp [Link.stream, hwire, decodeFrame, hopcode]
    have hrest : dropChunk s.link.wire = ws := by simp [hwire, dropChunk]
    exact ⟨s.link.discard s.cfg, by rw [step, fetch_of_unknownOpcode hunknown], rfl, rfl, rfl, hrest, rfl⟩
  · rw [step, fetch_of_reservedLength hreserved]

end Sys2Proof.Machine

/-! # Checks, codes and outcomes (spec/60_exceptions.md) -/

namespace Sys2Proof.Machine

/-- Settles O9: the six states are those from which four events do not suffice. -/
theorem fiveOnesReachReset : Obligations.FiveOnesReachReset := by
  unfold Obligations.FiveOnesReachReset
  constructor <;> intro s <;> cases s <;> decide

/-- Settles O42: each code is the table's. -/
theorem errorCodes : Obligations.ErrorCodes :=
  ⟨fun _ => rfl, fun _ => rfl, fun _ => rfl, rfl, fun _ _ _ _ => rfl, rfl⟩

/-- Settles O37: the three cases of the check. -/
theorem writeArgumentCheck : Obligations.WriteArgumentCheck := by
  unfold Obligations.WriteArgumentCheck
  intro c b
  exact ⟨writeErr_of_nil, writeErr_of_large, fun hne hmax => (writeErr_eq_none c b).mpr ⟨by simpa using hne, hmax⟩⟩

/-- Settles O52: a requested frame is the operation of its row. -/
theorem requestedFrameRunsItsOperation : Obligations.RequestedFrameRunsItsOperation := fun _ h =>
  ⟨exec_wbits_of_block h, exec_wbytes_of_block h, exec_wtms_of_block h, exec_rbits_of_block h, exec_rbytes_of_block h,
    exec_rwbytes_of_block h⟩

/-! ## Every instruction ends -/

/-- The machine goes on, with an outcome where the block has run the instruction. -/
def Ends (s : State) (i : Instr) : Prop :=
  ∃ t, exec i s = .next t ∧ (s.turn = .block ∨ isFrame i = false → ∃ r, t.reply = some r)

theorem ends_of_deliver {α : Type} {s : State} {i : Instr} {v : α → Value} {r : Res α} (h : exec i s = deliver v r) :
    Ends s i := by
  obtain ⟨a, t, -, hd⟩ | ⟨e, t, -, hd⟩ := deliver_cases v r
  · exact ⟨_, h.trans hd, fun _ => ⟨_, rfl⟩⟩
  · exact ⟨_, h.trans hd, fun _ => ⟨_, rfl⟩⟩

/-- A frame is run by the link, or is the operation of its row. -/
theorem ends_of_frame {s : State} {f : Frame} {j : Instr} (hlink : s.turn = .link → exec f.toInstr s = .next (runOnLink f s))
    (hblock : s.turn = .block → exec f.toInstr s = exec j s) (hj : Ends s j) (hframe : isFrame j = false) :
    Ends s f.toInstr := by
  cases hturn : s.turn with
  | link =>
    refine ⟨_, hlink hturn, ?_⟩
    cases f <;> simp [hturn, Frame.toInstr, isFrame]
  | block =>
    obtain ⟨t, ht, hreply⟩ := hj
    exact ⟨t, (hblock hturn).trans ht, fun _ => hreply (.inr hframe)⟩

theorem exec_frame_of_link {f : Frame} {s : State} (h : s.turn = .link) :
    exec f.toInstr s = .next (runOnLink f s) := by
  cases f <;> simp [Frame.toInstr, exec, execWbits, execWbytes, execWtms, execRbits, execRbytes, execRwbytes, h]

/-- Settles O49: every operation delivers its outcome, and a frame on the link's turn is a next state. -/
theorem everyInstructionEnds : Obligations.EveryInstructionEnds := by
  unfold Obligations.EveryInstructionEnds
  intro s i
  cases i with
  | wbits b =>
    exact ends_of_frame (f := .wbits b) exec_frame_of_link (exec_wbits_of_block · b) (ends_of_deliver rfl) rfl
  | wbytes b =>
    exact ends_of_frame (f := .wbytes b) exec_frame_of_link (exec_wbytes_of_block · b) (ends_of_deliver rfl) rfl
  | wtms ev d =>
    exact ends_of_frame (f := .wtms ev d) exec_frame_of_link (exec_wtms_of_block · ev d) (ends_of_deliver rfl) rfl
  | rbits n =>
    exact ends_of_frame (f := .rbits n) exec_frame_of_link (exec_rbits_of_block · n) (ends_of_deliver rfl) rfl
  | rbytes n =>
    exact ends_of_frame (f := .rbytes n) exec_frame_of_link (exec_rbytes_of_block · n) (ends_of_deliver rfl) rfl
  | rwbytes b =>
    exact ends_of_frame (f := .rwbytes b) exec_frame_of_link (exec_rwbytes_of_block · b) (ends_of_deliver rfl) rfl
  | currentState => exact ends_of_deliver (v := Value.state) (r := .ok s.tap s) rfl
  | gReset => exact ends_of_deliver (v := noValue) (r := .ok () { s with tap := .tlr }) rfl
  | applyEvents ev => exact ends_of_deliver (v := noValue) (r := .ok () { s with tap := applyEvents s.tap ev }) rfl
  | _ => exact ends_of_deliver rfl

/-! ## A closed session -/

theorem facility_closed {α : Type} {v : α → Value} {args : List (Option Err)} {s : State} {k : State → Res α}
    (h : s.session = .closed) : deliver v (check (facilityErrs s args) s k) = refuses (.cme .sessionClosed) s := by
  rw [facilityErrs]
  cases s.cfg.facilityOrder <;> exact checked_closed h

/-- Settles O43: the session is the first check of every operation of the two groups, and no TapGraph operation looks at
it. -/
theorem closedSessionRefuses : Obligations.ClosedSessionRefuses := by
  unfold Obligations.ClosedSessionRefuses
  refine ⟨fun s i hclosed hi => ?_, fun s t i x hi ht => ?_⟩
  · obtain hi | ⟨hi, hturn⟩ := hi
    · cases i with
      | currentState | gReset | findPath | pathToEvents | applyEvents | openSession => cases hi
      | wbits | wbytes | wtms | rbits | rbytes | rwbytes => cases hi
      | preload | sample | extest | readback => exact facility_closed hclosed
      | _ => exact checked_closed hclosed
    · cases i with
      | wbits b => exact (exec_wbits_of_block hturn b).trans (checked_closed hclosed)
      | wbytes b => exact (exec_wbytes_of_block hturn b).trans (checked_closed hclosed)
      | wtms ev d => exact (exec_wtms_of_block hturn ev d).trans (checked_closed hclosed)
      | rbits n => exact (exec_rbits_of_block hturn n).trans (checked_closed hclosed)
      | rbytes n => exact (exec_rbytes_of_block hturn n).trans (checked_closed hclosed)
      | rwbytes b => exact (exec_rwbytes_of_block hturn b).trans (checked_closed hclosed)
      | _ => cases hi
  · cases i with
    | currentState | gReset | applyEvents => cases ht; exact ⟨by simp, rfl⟩
    | findPath target source =>
      obtain ⟨ev, hroute, -⟩ := route_ok (source.getD s.tap) target
      obtain ⟨p, hp, -⟩ := route_eq_ok hroute
      rw [exec_findPath_of_some hp] at ht
      cases ht
      exact ⟨by simp, exec_findPath_of_some hp⟩
    | pathToEvents path =>
      cases hpath : pathToEvents path with
      | none =>
        rw [exec_pathToEvents_of_none hpath] at ht
        cases ht
        exact ⟨by simp, exec_pathToEvents_of_none hpath _⟩
      | some ev =>
        rw [exec_pathToEvents_of_some hpath] at ht
        cases ht
        exact ⟨by simp, exec_pathToEvents_of_some hpath _⟩
    | _ => cases hi

end Sys2Proof.Machine

/-! # The link stays well formed (spec/43_link_model.md R220, R231)

A clock, a frame, a discarded byte and a pin change each keep the set of states in its form and not empty, and the
registers at their lengths. -/

namespace Sys2Proof.Machine

/-- `Link.wf` by its parts. -/
structure Link.WellFormed (c : Config) (l : Link) : Prop where
  nonempty : l.poss ≠ []
  canonical : canonical l.poss = true
  irSh : l.irSh.length = c.irLen
  drSh : l.drSh.length = c.drLen
  irUpd : l.irUpd.length = c.irLen
  drUpd : l.drUpd.length = c.drLen

theorem Link.wf_iff {c : Config} {l : Link} : l.wf c = true ↔ l.WellFormed c := by
  simp only [Link.wf, Bool.and_eq_true, bne_iff_ne, beq_iff_eq]
  constructor
  · rintro ⟨⟨⟨⟨⟨hne, hcan⟩, hir⟩, hdr⟩, hiu⟩, hdu⟩
    exact ⟨hne, by simpa [Machine.canonical] using hcan, hir, hdr, hiu, hdu⟩
  · rintro ⟨hne, hcan, hir, hdr, hiu, hdu⟩
    exact ⟨⟨⟨⟨⟨hne, by simpa [Machine.canonical] using hcan⟩, hir⟩, hdr⟩, hiu⟩, hdu⟩

/-- A set of states in its one form that holds one state only is that state alone. -/
theorem canonical_eq_singleton {p : List Tap} {t : Tap} (hcan : canonical p = true) (hne : p ≠ [])
    (h : ∀ u ∈ p, u = t) : p = [t] := by
  have hp : p = allTaps.filter fun u => p.contains u := by simpa [canonical] using hcan
  have ht : t ∈ p := by
    obtain ⟨u, hu⟩ := List.exists_mem_of_ne_nil p hne
    exact h u hu ▸ hu
  have hcontains (u : Tap) : p.contains u = [t].contains u := by
    by_cases hu : u = t
    · simp [hu, ht]
    · simpa [hu] using fun hmem => hu (h u hmem)
  have hone : [t] = allTaps.filter fun u => [t].contains u := by simpa [canonical] using canonical_single t
  rw [hp, hone]
  exact List.filter_congr fun u _ => hcontains u

section
variable {c : Config} {l : Link}

/-- With the registers any value, only the set of states matters (R224). -/
theorem Link.anyRegs_wellFormed (hne : l.poss ≠ []) (hcan : Machine.canonical l.poss = true) :
    (l.anyRegs c).WellFormed c :=
  ⟨hne, hcan, freeBits_length _ _, freeBits_length _ _, freeBits_length _ _, freeBits_length _ _⟩

/-- `Link.wf` speaks of the set of states and the registers alone. -/
theorem Link.WellFormed.congr {l' : Link} (h : l.WellFormed c) (hposs : l'.poss = l.poss) (hirSh : l'.irSh = l.irSh)
    (hdrSh : l'.drSh = l.drSh) (hirUpd : l'.irUpd = l.irUpd) (hdrUpd : l'.drUpd = l.drUpd) : l'.WellFormed c :=
  ⟨hposs ▸ h.nonempty, hposs ▸ h.canonical, hirSh ▸ h.irSh, hdrSh ▸ h.drSh, hirUpd ▸ h.irUpd, hdrUpd ▸ h.drUpd⟩

theorem allTaps_ne_nil : allTaps ≠ [] := by decide

theorem shiftReg_length (r : Bits) (d : Bool) : (shiftReg r d).2.length = r.length := by
  cases r <;> simp [shiftReg]

/-- A shift keeps the set of states, the latches and the lengths of the registers (R224). -/
theorem Link.WellFormed.shift (h : l.WellFormed c) (s : Tap) (d : Bool) : (l.shift s d).2.WellFormed c := by
  have hdr := shiftReg_length l.drSh d
  have hir := shiftReg_length l.irSh d
  obtain ⟨hne, hcan, hirSh, hdrSh, hirUpd, hdrUpd⟩ := h
  unfold Link.shift
  split
  · split
    · next b r hr => exact ⟨hne, hcan, hirSh, by rw [hr] at hdr; exact hdr.trans hdrSh, hirUpd, hdrUpd⟩
    · next r hr => exact ⟨hne, hcan, hirSh, by rw [hr] at hdr; exact hdr.trans hdrSh, hirUpd, hdrUpd⟩
  · split
    · split
      · next b r hr => exact ⟨hne, hcan, by rw [hr] at hir; exact hir.trans hirSh, hdrSh, hirUpd, hdrUpd⟩
      · next r hr => exact ⟨hne, hcan, by rw [hr] at hir; exact hir.trans hirSh, hdrSh, hirUpd, hdrUpd⟩
    · exact ⟨hne, hcan, hirSh, hdrSh, hirUpd, hdrUpd⟩

theorem Link.WellFormed.enter (h : l.WellFormed c) (s : Tap) : (l.enter c s).WellFormed c := by
  obtain ⟨hne, hcan, hirSh, hdrSh, hirUpd, hdrUpd⟩ := h
  unfold Link.enter
  split
  · exact ⟨hne, hcan, hirSh, bitsOfNat_length _ _, hirUpd, hdrUpd⟩
  · split
    · exact ⟨hne, hcan, bitsOfNat_length _ _, hdrSh, hirUpd, hdrUpd⟩
    · split
      · exact ⟨hne, hcan, hirSh, hdrSh, hirUpd, hdrSh⟩
      · split
        · exact ⟨hne, hcan, hirSh, hdrSh, hirSh, hdrUpd⟩
        · exact ⟨hne, hcan, hirSh, hdrSh, hirUpd, hdrUpd⟩

theorem imageOf_ne_nil {p : List Tap} (h : p ≠ []) (m : Bool) : imageOf p m ≠ [] := by
  obtain ⟨u, hu⟩ := List.exists_mem_of_ne_nil p h
  exact List.ne_nil_of_mem ((mem_imageOf p m _).mpr ⟨u, hu, rfl⟩)

theorem Link.WellFormed.clock (h : l.WellFormed c) (m d : Bool) : (l.clock c m d).2.WellFormed c := by
  unfold Link.clock
  split
  · next s _ =>
    obtain ⟨-, -, hirSh, hdrSh, hirUpd, hdrUpd⟩ := (h.shift s d).enter (nxt s m)
    exact ⟨by simp, canonical_single _, hirSh, hdrSh, hirUpd, hdrUpd⟩
  · exact (Link.anyRegs_wellFormed (l := { l with poss := imageOf l.poss m }) (imageOf_ne_nil h.nonempty m)
      (canonical_filter fun t => l.poss.any fun s => nxt s m == t)).congr rfl rfl rfl rfl rfl

theorem Link.WellFormed.dataClock (h : l.WellFormed c) (d : Bool) : (l.dataClock c d).2.WellFormed c := by
  unfold Link.dataClock
  split
  · exact h.clock _ d
  · exact (Link.anyRegs_wellFormed (l := { l with poss := allTaps }) allTaps_ne_nil canonical_allTaps).congr
      rfl rfl rfl rfl rfl

theorem Link.WellFormed.dataClocks (h : l.WellFormed c) (b : Bits) : (l.dataClocks c b).2.WellFormed c := by
  induction b generalizing l with
  | nil => exact h
  | cons d ds ih => exact ih (h.dataClock d)

theorem Link.WellFormed.tmsClocks (h : l.WellFormed c) (d : Bool) (ev : Bits) : (l.tmsClocks c d ev).WellFormed c := by
  induction ev generalizing l with
  | nil => exact h
  | cons m ms ih => exact ih (h.clock m d)

theorem Link.WellFormed.bitsResponse (h : l.WellFormed c) (v : Bits) : (l.bitsResponse c v).2.WellFormed c := by
  unfold Link.bitsResponse
  split <;> exact h.congr rfl rfl rfl rfl rfl

theorem Link.WellFormed.respond (h : l.WellFormed c) (bs : List Byte) : (l.respond bs).WellFormed c :=
  h.congr rfl rfl rfl rfl rfl

theorem Link.WellFormed.runFrame (h : l.WellFormed c) (f : Frame) : (l.runFrame c f).WellFormed c := by
  cases f with
  | wbits b => exact h.dataClocks b
  | wbytes b => exact h.dataClocks b
  | wtms ev d => exact (h.tmsClocks d ev).congr rfl rfl rfl rfl rfl
  | rbits n => exact ((h.dataClocks _).bitsResponse _).respond _
  | rbytes n => exact (h.dataClocks _).respond _
  | rwbytes b => exact (h.dataClocks _).respond _

theorem Link.discard_wellFormed : (l.discard c).WellFormed c :=
  Link.anyRegs_wellFormed (l := { l with poss := allTaps, wire := dropChunk l.wire }) allTaps_ne_nil canonical_allTaps

theorem Link.garble_wellFormed : (l.garble c).WellFormed c := Link.discard_wellFormed.congr rfl rfl rfl rfl rfl

theorem Link.WellFormed.settleN (h : l.WellFormed c) (n : Nat) : (l.settleN c n).WellFormed c := by
  induction n generalizing l with
  | zero => exact h
  | succ n ih =>
    rw [Link.settleN]
    split
    · next f rest _ => exact ih ((h.congr (l' := l.keep rest.length) rfl rfl rfl rfl rfl).runFrame f)
    · exact h
    · exact ih Link.discard_wellFormed
    · exact ih Link.garble_wellFormed

theorem Link.WellFormed.settle (h : l.WellFormed c) : (l.settle c).WellFormed c := h.settleN _

theorem Link.WellFormed.cut (h : l.WellFormed c) : l.cut.WellFormed c := by
  unfold Link.cut
  split
  · exact h.congr rfl rfl rfl rfl rfl
  · exact h

theorem Link.WellFormed.setPins (h : l.WellFormed c) (v d : PinMask) : (l.setPins c v d).WellFormed c := by
  have hposs : (l.setPins c v d).poss ≠ [] ∧ Machine.canonical (l.setPins c v d).poss = true := by
    simp only [Link.setPins]
    split
    · decide
    · exact ⟨h.nonempty, h.canonical⟩
  exact ⟨hposs.1, hposs.2, h.irSh, h.drSh, h.irUpd, h.drUpd⟩

theorem Link.WellFormed.changePins (h : l.WellFormed c) (v d : PinMask) : (l.changePins c v d).WellFormed c :=
  h.settle.cut.setPins v d

theorem Link.lose_wellFormed : (l.lose c).WellFormed c :=
  Link.anyRegs_wellFormed (l := { l with poss := allTaps, tms := none, torn := true }) allTaps_ne_nil canonical_allTaps

theorem Link.unknown_wellFormed (c : Config) (n : Nat) : (Link.unknown c n).WellFormed c :=
  ⟨allTaps_ne_nil, canonical_allTaps, freeBits_length _ _, freeBits_length _ _, freeBits_length _ _,
    freeBits_length _ _⟩

end

end Sys2Proof.Machine

/-! # Checks (spec/60_exceptions.md R255) -/

namespace Sys2Proof.Machine

/-- The check refuses by a `PIE` or a `CME`, if at all. -/
def EarlyCheck (x : Option Err) : Prop := ∀ e, x = some e → e.isEarly = true

theorem earlyCheck_ite {p : Prop} [Decidable p] {e : Err} {x : Option Err} (he : e.isEarly = true)
    (hx : EarlyCheck x) : EarlyCheck (if p then some e else x) := by
  split
  · rintro e' ⟨⟩
    exact he
  · exact hx

theorem earlyCheck_none : EarlyCheck none := fun _ h => by cases h

section
variable (s : State) (c : Config) (b : Bits) (n : Nat)

theorem sessionErr_early : EarlyCheck (sessionErr s) := by
  rw [sessionErr]
  split
  · exact earlyCheck_none
  · rintro e ⟨⟩
    rfl

theorem carryErr_early : EarlyCheck (carryErr s) := earlyCheck_ite rfl earlyCheck_none

theorem frameErr_early : EarlyCheck (frameErr c n) := earlyCheck_ite rfl earlyCheck_none

theorem bitCountErr_early : EarlyCheck (bitCountErr c b) := earlyCheck_ite rfl earlyCheck_none

theorem byteAlignErr_early : EarlyCheck (byteAlignErr b) := earlyCheck_ite rfl earlyCheck_none

theorem payloadErr_early : EarlyCheck (payloadErr c n) := frameErr_early c (3 + n)

theorem writeErr_early : EarlyCheck (writeErr c b) := by
  refine earlyCheck_ite rfl ?_
  split
  · exact payloadErr_early c _
  · exact earlyCheck_none

theorem tmsErr_early : EarlyCheck (tmsErr c b) := earlyCheck_ite rfl earlyCheck_none

theorem readBitsErr_early : EarlyCheck (readBitsErr c n) := earlyCheck_ite rfl earlyCheck_none

theorem readBytesErr_early : EarlyCheck (readBytesErr c n) := earlyCheck_ite rfl earlyCheck_none

theorem readErr_early : EarlyCheck (readErr c n) := earlyCheck_ite rfl earlyCheck_none

theorem lengthErr_early (len : Int) : EarlyCheck (lengthErr len) := earlyCheck_ite rfl earlyCheck_none

theorem facilityErrs_early {args : List (Option Err)} (h : ∀ x ∈ args, EarlyCheck x) :
    ∀ x ∈ facilityErrs s args, EarlyCheck x := by
  have hsession := sessionErr_early s
  have hcarry := carryErr_early s
  rw [facilityErrs]
  cases s.cfg.facilityOrder
  · simp only [List.forall_mem_cons]
    exact ⟨hsession, hcarry, h⟩
  · simp only [List.forall_mem_cons, List.forall_mem_append]
    exact ⟨hsession, h, hcarry, nofun⟩

end

/-- A body that begins with checks of its own is one after them all. -/
theorem check_check {α : Type} (es : List (Option Err)) (es' : State → List (Option Err)) (s : State)
    (k : State → Res α) : check es s (fun t => check (es' t) t k) = check (es ++ es' s) s k := by
  rw [check, check, check, List.findSome?_append]
  cases es.findSome? id <;> rfl

/-- A check that refuses, among others that may refuse before it, ends the operation early with nothing changed. -/
theorem checked_refuses_early {α : Type} {v : α → Value} {es : List (Option Err)} {s : State} {k : State → Res α}
    {e : Err} (hmem : some e ∈ es) (hes : ∀ x ∈ es, EarlyCheck x) :
    ∃ e', deliver v (check es s k) = refuses e' s ∧ e'.isEarly = true := by
  obtain ⟨hpass, -⟩ | ⟨e', he', hk⟩ := check_cases es s k
  · cases hpass _ hmem
  · exact ⟨e', by rw [hk]; rfl, hes _ he' e' rfl⟩

/-! ## A pending carry refuses (41_framing.md R140, R156) -/

theorem carryErr_of_enforce {s : State} (hpolicy : s.cfg.carryPolicy = .enforce) (hcarry : s.carryV = true) :
    carryErr s = some (.pie .carryPending) := by
  rw [carryErr, if_pos ⟨hpolicy, hcarry⟩]

section
variable {α : Type} {v : α → Value} {es : List (Option Err)} {s : State} {k : State → Res α}
  (hcarry : carryErr s = some (.pie .carryPending)) (hes : ∀ x ∈ es, EarlyCheck x)
include hcarry hes

theorem checked_carry_refuses :
    ∃ e, deliver v (check (es ++ [carryErr s]) s k) = refuses e s ∧ e.isEarly = true := by
  refine checked_refuses_early (e := .pie .carryPending) (by simp [hcarry]) ?_
  rw [List.forall_mem_append]
  exact ⟨hes, by simpa using carryErr_early s⟩

theorem facility_carry_refuses :
    ∃ e, deliver v (check (facilityErrs s es) s k) = refuses e s ∧ e.isEarly = true := by
  refine checked_refuses_early (e := .pie .carryPending) ?_ (facilityErrs_early s hes)
  rw [facilityErrs, hcarry]
  cases s.cfg.facilityOrder <;> simp

end

/-- Settles O28: the carry check is among the checks of each of the sixteen operations, and none of those refuses late. -/
theorem pendingCarryRefuses : Obligations.PendingCarryRefuses := by
  unfold Obligations.PendingCarryRefuses
  intro s i hpolicy hpending hi
  have hcarry := carryErr_of_enforce hpolicy hpending
  have hsession := sessionErr_early s
  cases i with
  | writeBits b => exact checked_carry_refuses (es := [_, _]) hcarry (by simp [hsession, bitCountErr_early])
  | writeBytes b =>
    exact checked_carry_refuses (es := [_, _, _]) hcarry (by simp [hsession, byteAlignErr_early, payloadErr_early])
  | write b =>
    rw [exec, execWrite, funext (writeSeq.eq_1 b), check_check _ fun t => [writeErr t.cfg b, carryErr t]]
    exact checked_carry_refuses (es := [_, _]) hcarry (by simp [hsession, writeErr_early])
  | readBits n => exact checked_carry_refuses (es := [_, _]) hcarry (by simp [hsession, readBitsErr_early])
  | readBytes n => exact checked_carry_refuses (es := [_, _]) hcarry (by simp [hsession, readBytesErr_early])
  | read n =>
    rw [exec, execRead, funext (readSeq.eq_1 n), check_check _ fun t => [readErr t.cfg n, carryErr t]]
    exact checked_carry_refuses (es := [_, _]) hcarry (by simp [hsession, readErr_early])
  | shiftBytes b =>
    exact checked_carry_refuses (es := [_, _, _]) hcarry (by simp [hsession, byteAlignErr_early, payloadErr_early])
  | close => exact checked_carry_refuses (es := [_]) hcarry (by simp [hsession])
  | writeIr b | writeDr b => exact checked_carry_refuses (es := [_, _]) hcarry (by simp [hsession, writeErr_early])
  | readDr n => exact checked_carry_refuses (es := [_, _]) hcarry (by simp [hsession, readErr_early])
  | idcode => exact checked_carry_refuses (es := [_]) hcarry (by simp [hsession])
  | preload b | extest b => exact facility_carry_refuses hcarry (by simp [writeErr_early])
  | sample => exact facility_carry_refuses hcarry (by simp [writeErr_early, lengthErr_early, readErr_early])
  | readback => exact facility_carry_refuses hcarry (by simp [lengthErr_early, readErr_early])
  | _ => cases hi

end Sys2Proof.Machine

/-! # A law of every part of an operation

What holds of the shared operations, of each update between them and of a refusal, and goes through sequencing, holds of
every part and so of every operation in a session. The laws: the invariants of spec/10_state.md R33, what the buffer
keeps (spec/20_memory.md R41), and what a transport error leaves (spec/41_framing.md R141). -/

namespace Sys2Proof.Machine

/-- A statement about a part from its first state to its outcome that the sequencing of parts keeps. -/
structure PartLaw (Q : (α : Type) → State → Res α → Prop) : Prop where
  ok : ∀ {α : Type} (a : α) (s : State), Q α s (.ok a s)
  refuse : ∀ {α : Type} {e : Err} (s : State), e.isEarly = true → Q α s (.err e s)
  bind : ∀ {α β : Type} {s : State} {r : Res α} {f : α → State → Res β},
    Q α s r → (∀ a t, Q β t (f a t)) → Q β s (r.bind f)
  flushBuf : ∀ s, Q Unit s (flushBuf s)
  queueBytes : ∀ f s, Q Unit s (queueBytes f s)
  txRead : ∀ n s, Q (List Byte) s (txRead n s)
  txSetPins : ∀ v s, Q Unit s (txSetPins v s)
  txClose : ∀ s, Q Unit s (txClose s)
  delay : ∀ s, Q Unit s (.ok () (delay s))
  setCarry : ∀ b s, Q Unit s (.ok () (setCarry b s))
  clearCarry : ∀ s, Q Unit s (.ok () (clearCarry s))
  setTap : ∀ t s, Q Unit s (.ok () { s with tap := t })
  endSession : ∀ s, Q Unit s (.ok () { s with session := .closed })

namespace PartLaw

section
variable {Q : (α : Type) → State → Res α → Prop} (law : PartLaw Q)
include law

theorem check {α : Type} {es : List (Option Err)} {s : State} {k : State → Res α} (hes : ∀ x ∈ es, EarlyCheck x)
    (h : Q α s (k s)) : Q α s (check es s k) := by
  obtain ⟨-, hk⟩ | ⟨e, he, hk⟩ := check_cases es s k <;> rw [hk]
  · exact h
  · exact law.refuse s (hes _ he e rfl)

theorem bind_ok {α β : Type} {s : State} {r : Res α} {f : α → State → β} (h : Q α s r) :
    Q β s (r.bind fun a t => .ok (f a t) t) :=
  law.bind h fun _ t => law.ok _ t

theorem emit (f : Frame) (s : State) : Q Unit s (emit f s) := law.queueBytes _ s

theorem exchange (f : Frame) (n : Nat) (s : State) : Q (List Byte) s (exchange f n s) :=
  law.bind (law.emit f s) fun _ t => law.bind (law.flushBuf t) fun _ u => law.txRead n u

theorem readBits (n : Nat) (s : State) : Q Bits s (readBits n s) := law.bind_ok (law.exchange _ _ s)

theorem readBytes (n : Nat) (s : State) : Q Bits s (readBytes n s) := law.bind_ok (law.exchange _ _ s)

theorem readIf {n : Nat} {k : Nat → State → Res Bits} {s : State} (h : Q Bits s (k n s)) :
    Q Bits s (readIf n k s) := by
  rw [Machine.readIf]
  split
  · exact h
  · exact law.ok _ s

theorem readSeq (n : Nat) (s : State) : Q Bits s (readSeq n s) :=
  law.check (by simp [readErr_early, carryErr_early]) <|
    law.bind (law.readIf (law.readBytes _ s)) fun _ t => law.bind_ok (law.readIf (law.readBits _ t))

theorem emitBytes (b : Bits) (s : State) : Q Unit s (emitBytes b s) := by
  rw [Machine.emitBytes]
  split
  · exact law.ok _ s
  · exact law.emit _ s

theorem emitBits (b : Bits) (s : State) : Q Unit s (emitBits b s) := by
  rw [Machine.emitBits]
  split
  · exact law.ok _ s
  · exact law.emit _ s

theorem writeSeq (b : Bits) (s : State) : Q Unit s (writeSeq b s) :=
  law.check (by simp [writeErr_early, carryErr_early]) <|
    law.bind (law.emitBytes _ s) fun _ t => law.bind (law.emitBits _ t) fun _ u => law.setCarry _ u

theorem writeTms (ev : Bits) (s : State) : Q Unit s (writeTms ev s) :=
  law.check (by simp [tmsErr_early]) <| law.bind (law.emit _ s) fun _ t => law.clearCarry t

theorem sendTms (ps : List Bits) (s : State) : Q Unit s (sendTms ps s) := by
  induction ps generalizing s with
  | nil => exact law.ok _ s
  | cons p ps ih => exact law.bind (law.writeTms p s) fun _ t => ih t

theorem changeState (t : Tap) (s : State) : Q Unit s (changeState t s) := by
  obtain ⟨ev, hroute, -⟩ := route_ok s.tap t
  rw [changeState_of_route hroute]
  exact law.bind (law.sendTms _ s) fun _ u => law.setTap t u

theorem writeReg (shift update : Tap) (b : Bits) (s : State) : Q Unit s (writeReg shift update b s) :=
  law.bind (law.changeState shift s) fun _ t => law.bind (law.writeSeq b t) fun _ u => law.changeState update u

theorem readDr (n : Nat) (s : State) : Q Bits s (readDr n s) :=
  law.bind (law.changeState .shdr s) fun _ t =>
    law.bind (law.readSeq n t) fun _ u => law.bind_ok (law.changeState .updr u)

theorem readDrThenIdle (n : Nat) (s : State) : Q Bits s (readDrThenIdle n s) :=
  law.bind (law.readDr n s) fun _ t => law.bind_ok (law.changeState .rti t)

theorem loadAndWrite (pattern b : Bits) (s : State) : Q Unit s (loadAndWrite pattern b s) :=
  law.bind (law.writeReg _ _ pattern s) fun _ t =>
    law.bind (law.writeReg _ _ b t) fun _ u => law.changeState .rti u

theorem resetPulse (s : State) : Q Unit s (resetPulse s) :=
  law.bind (law.txSetPins _ s) fun _ t =>
    law.bind (law.bind (law.delay t) fun _ u => law.txSetPins _ u) fun _ v => law.delay v

theorem resetCalls (s : State) : Q Unit s (resetCalls s) :=
  law.bind (law.flushBuf s) fun _ t => law.bind (law.resetPulse t) fun _ u =>
    law.bind (law.writeTms _ u) fun _ v => law.flushBuf v

end

/-- An operation whose outcome is that of a part under the law. -/
def Delivers (Q : (α : Type) → State → Res α → Prop) (s : State) (o : Host.Outcome State Fault Refusal) : Prop :=
  ∃ (α : Type) (v : α → Value) (r : Res α), o = deliver v r ∧ Q α s r

section
variable {Q : (α : Type) → State → Res α → Prop} (law : PartLaw Q)
include law

theorem checked {α : Type} {v : α → Value} {es : List (Option Err)} {s : State} {k : State → Res α}
    (hes : ∀ x ∈ es, EarlyCheck x) (h : Q α s (k s)) : Delivers Q s (deliver v (Machine.check es s k)) :=
  ⟨α, v, _, rfl, law.check hes h⟩

theorem facility {α : Type} {v : α → Value} {args : List (Option Err)} {s : State} {k : State → Res α}
    (hargs : ∀ x ∈ args, EarlyCheck x) (h : Q α s (k s)) :
    Delivers Q s (deliver v (Machine.check (facilityErrs s args) s k)) :=
  law.checked (facilityErrs_early s hargs) h

theorem execWriteBits (b : Bits) (s : State) : Delivers Q s (exec (.writeBits b) s) :=
  law.checked (by simp [sessionErr_early, bitCountErr_early, carryErr_early]) (law.emit _ s)

theorem execWriteBytes (b : Bits) (s : State) : Delivers Q s (exec (.writeBytes b) s) :=
  law.checked (by simp [sessionErr_early, byteAlignErr_early, payloadErr_early, carryErr_early]) (law.emit _ s)

theorem execWriteTms (ev : Bits) (s : State) : Delivers Q s (exec (.writeTms ev) s) :=
  law.checked (by simp [sessionErr_early]) (law.writeTms ev s)

theorem execReadBits (n : Nat) (s : State) : Delivers Q s (exec (.readBits n) s) :=
  law.checked (by simp [sessionErr_early, readBitsErr_early, carryErr_early]) (law.readBits n s)

theorem execReadBytes (n : Nat) (s : State) : Delivers Q s (exec (.readBytes n) s) :=
  law.checked (by simp [sessionErr_early, readBytesErr_early, carryErr_early]) (law.readBytes n s)

theorem execShiftBytes (b : Bits) (s : State) : Delivers Q s (exec (.shiftBytes b) s) :=
  law.checked (by simp [sessionErr_early, byteAlignErr_early, payloadErr_early, carryErr_early])
    (law.bind_ok (law.exchange _ _ s))

theorem execClose (s : State) : Delivers Q s (exec .close s) :=
  law.checked (by simp [sessionErr_early, carryErr_early]) <| law.bind (law.flushBuf s) fun _ t =>
    law.bind (law.bind (law.clearCarry t) fun _ u => law.txClose u) fun _ v => law.endSession v

theorem execReset (s : State) : Delivers Q s (exec .reset s) := by
  refine ⟨Unit, noValue, Machine.check [sessionErr s] s fun s =>
    (Machine.resetCalls s).bind fun _ t => .ok () { t with tap := .tlr }, ?_,
    law.check (by simp [sessionErr_early]) (law.bind (law.resetCalls s) fun _ t => law.setTap .tlr t)⟩
  simp only [Machine.resetCalls, Machine.resetPulse, resetEvents, Res.bind_assoc, Machine.bind_ok]
  rfl

/-- The block's operations in a session, and the frames requested in their place. -/
theorem exec {s : State} {i : Instr} (hi : needsSession i = true ∨ (isFrame i = true ∧ s.turn = .block)) :
    Delivers Q s (exec i s) := by
  obtain hi | ⟨hi, hturn⟩ := hi
  · have hsession := sessionErr_early s
    have hcarry := carryErr_early s
    cases i with
    | currentState | gReset | findPath | pathToEvents | applyEvents | openSession => cases hi
    | wbits | wbytes | wtms | rbits | rbytes | rwbytes => cases hi
    | queue f => exact law.checked (by simp [hsession]) (law.queueBytes f s)
    | flush => exact law.checked (by simp [hsession]) (law.flushBuf s)
    | writeBits b => exact law.execWriteBits b s
    | writeBytes b => exact law.execWriteBytes b s
    | write b => exact law.checked (by simp [hsession]) (law.writeSeq b s)
    | writeTms ev => exact law.execWriteTms ev s
    | readBits n => exact law.execReadBits n s
    | readBytes n => exact law.execReadBytes n s
    | read n => exact law.checked (by simp [hsession]) (law.readSeq n s)
    | shiftBytes b => exact law.execShiftBytes b s
    | close => exact law.execClose s
    | changeState t => exact law.checked (by simp [hsession]) (law.changeState t s)
    | goIdle => exact law.checked (by simp [hsession]) (law.changeState .rti s)
    | writeIr b | writeDr b =>
      exact law.checked (by simp [hsession, writeErr_early, hcarry]) (law.writeReg _ _ b s)
    | readDr n => exact law.checked (by simp [hsession, readErr_early, hcarry]) (law.readDr n s)
    | reset => exact law.execReset s
    | idcode => exact law.checked (by simp [hsession, hcarry]) (law.readDrThenIdle 32 s)
    | preload b | extest b => exact law.facility (by simp [writeErr_early]) (law.loadAndWrite _ b s)
    | sample =>
      exact law.facility (by simp [lengthErr_early, writeErr_early, readErr_early]) <|
        law.bind (law.writeReg _ _ _ s) fun _ t => law.readDrThenIdle _ t
    | readback => exact law.facility (by simp [lengthErr_early, readErr_early]) (law.readDrThenIdle _ s)
  · cases i with
    | wbits b => rw [exec_wbits_of_block hturn]; exact law.execWriteBits b s
    | wbytes b => rw [exec_wbytes_of_block hturn]; exact law.execWriteBytes b s
    | wtms ev d => rw [exec_wtms_of_block hturn]; exact law.execWriteTms ev s
    | rbits n => rw [exec_rbits_of_block hturn]; exact law.execReadBits n s
    | rbytes n => rw [exec_rbytes_of_block hturn]; exact law.execReadBytes n s
    | rwbytes b => rw [exec_rwbytes_of_block hturn]; exact law.execShiftBytes b s
    | _ => cases hi

end

end PartLaw

end Sys2Proof.Machine

/-! ## Laws from the updates of the state

A relation of the states before and after a part that each single update keeps. -/

namespace Sys2Proof.Machine

/-- The state an outcome leaves. -/
def Res.state {α : Type} : Res α → State
  | .ok _ s => s
  | .err _ s => s

/-- A call that is made: its event, its answer used up, the link moved. -/
def State.called (e : TxEvent) (l : Link) (s : State) : State :=
  { s with events := s.events ++ [e], inp := s.inp.tail, link := l }

/-- What a call that fails leaves then (41_framing.md R141). -/
def State.broken (s : State) : State := { s with buf := [], carryV := false, carryB := false, link := s.lostLink }

/-- What a call that is made does to the link. -/
inductive LinkMove (c : Config) (l : Link) : Link → Prop where
  | stay : LinkMove c l l
  | deliver (bs : List Byte) : LinkMove c l (l.deliver bs)
  | settle : LinkMove c l (l.settle c)
  | takeOut (n : Nat) : LinkMove c l ((l.settle c).takeOut n).2
  | changePins (v d : PinMask) : LinkMove c l (l.changePins c v d)

/-- A reflexive and transitive relation that every update of a part keeps. -/
structure UpdateLaw (R : State → State → Prop) : Prop where
  refl : ∀ s, R s s
  trans : ∀ {s t u}, R s t → R t u → R s u
  called : ∀ {s : State} {l : Link} (e : TxEvent), LinkMove s.cfg s.link l → R s (s.called e l)
  failed : ∀ {s : State} {l : Link} (e : TxEvent), LinkMove s.cfg s.link l → R s (s.called e l).broken
  sent : ∀ s : State, R s s.sent
  append : ∀ {s : State} {f : List Byte}, s.fits f.length → R s (bufAppend f s)
  delay : ∀ s, R s (delay s)
  setCarry : ∀ b s, R s (setCarry b s)
  clearCarry : ∀ s, R s (clearCarry s)
  setTap : ∀ (t : Tap) (s : State), R s { s with tap := t }
  endSession : ∀ s : State, R s { s with session := .closed }

section
variable {R : State → State → Prop} (law : UpdateLaw R)
include law

theorem UpdateLaw.flushBuf (s : State) : R s (flushBuf s).state := by
  by_cases hbuf : s.buf = []
  · rw [flushBuf_of_served (absurd hbuf), if_pos hbuf]
    exact law.refl s
  · rw [flushBuf_eq hbuf]
    split
    · exact law.failed (.write s.buf false) .stay
    · exact law.sent s

theorem UpdateLaw.queueBytes (f : List Byte) (s : State) : R s (queueBytes f s).state := by
  by_cases hf : f.length ≤ s.cfg.maxFrame
  · rw [queueBytes_eq hf]
    split
    · rw [State.queued]
      split
      · next hfits => exact law.append hfits
      · exact law.trans (law.sent s) (law.append (s := s.sent) (by simpa [State.fits, State.sent] using hf))
    · exact law.failed (.write s.buf false) .stay
  · rw [Machine.queueBytes, frameErr, if_pos (by omega)]
    exact law.refl s

theorem UpdateLaw.txRead (n : Nat) (s : State) : R s (txRead n s).state := by
  simp only [Machine.txRead]
  split
  · exact law.failed (.read n none) .settle
  · split
    · exact law.called (.read n _) (.takeOut n)
    · exact law.failed (.read n _) (.takeOut n)

theorem UpdateLaw.txSetPins (v : PinMask) (s : State) : R s (txSetPins v s).state := by
  rw [Machine.txSetPins]
  split
  · exact law.failed (.setPins v s.dir false) .stay
  · exact law.called (.setPins v s.dir true) (.changePins v s.dir)

theorem UpdateLaw.txClose (s : State) : R s (txClose s).state := by
  rw [Machine.txClose]
  split
  · exact law.failed (.txClose false) .stay
  · exact law.called (.txClose true) .stay

/-- Such a relation holds from the first state of every part to the state of its outcome. -/
theorem UpdateLaw.partLaw : PartLaw fun _ s r => R s r.state where
  ok _ s := law.refl s
  refuse s _ := law.refl s
  bind {_ _ _ r _} h k := by
    cases r with
    | ok a t => exact law.trans h (k a t)
    | err e t => exact h
  flushBuf := law.flushBuf
  queueBytes := law.queueBytes
  txRead := law.txRead
  txSetPins := law.txSetPins
  txClose := law.txClose
  delay := law.delay
  setCarry := law.setCarry
  clearCarry := law.clearCarry
  setTap := law.setTap
  endSession := law.endSession

end

theorem PartLaw.Delivers.state {R : State → State → Prop} {s t : State} {o : Host.Outcome State Fault Refusal}
    (h : PartLaw.Delivers (fun _ s r => R s r.state) s o) (ht : o = .next t) :
    ∃ u x, t = { u with reply := x } ∧ R s u := by
  obtain ⟨_, v, r, rfl, hr⟩ := h
  obtain ⟨a, u, rfl, hd⟩ | ⟨e, u, rfl, hd⟩ := deliver_cases v r <;> rw [hd] at ht <;> cases ht
  · exact ⟨u, _, rfl, hr⟩
  · exact ⟨u, _, rfl, hr⟩

/-- The instructions: those of TapGraph, `open`, those of a session, and the frames. -/
theorem instr_kind (i : Instr) : writesBuf i = false ∨ (∃ vid pid idx dir freq, i = .openSession vid pid idx dir freq) ∨
    needsSession i = true ∨ isFrame i = true := by
  cases i with
  | openSession vid pid idx dir freq => exact .inr (.inl ⟨vid, pid, idx, dir, freq, rfl⟩)
  | currentState | gReset | findPath | pathToEvents | applyEvents => exact .inl rfl
  | wbits | wbytes | wtms | rbits | rbytes | rwbytes => exact .inr (.inr (.inr rfl))
  | _ => exact .inr (.inr (.inl rfl))

theorem isFrame_of_needsSession {i : Instr} (h : needsSession i = true) : isFrame i = false := by
  cases i with
  | wbits | wbytes | wtms | rbits | rbytes | rwbytes => cases h
  | _ => rfl

/-! ## The buffer is append-only (20_memory.md R41) -/

/-- Events are only added, and where none is the buffer is only added to. -/
structure Appends (s t : State) : Prop where
  events : s.events <+: t.events
  buf : t.events = s.events → s.buf <+: t.buf

theorem Appends.of_event {s t : State} (e : TxEvent) (h : t.events = s.events ++ [e]) : Appends s t :=
  ⟨h ▸ List.prefix_append _ _, by simp [h]⟩

theorem Appends.of_buf {s t : State} (he : t.events = s.events) (hb : s.buf <+: t.buf) : Appends s t :=
  ⟨he ▸ List.prefix_rfl, fun _ => hb⟩

theorem appends_updateLaw : UpdateLaw Appends where
  refl _ := .of_buf rfl List.prefix_rfl
  trans {s t u} h k := by
    refine ⟨h.events.trans k.events, fun heq => ?_⟩
    have hst : t.events = s.events := (h.events.eq_of_length_le (heq ▸ k.events.length_le)).symm
    exact (h.buf hst).trans (k.buf (heq.trans hst.symm))
  called e _ := .of_event e rfl
  failed e _ := .of_event e rfl
  sent s := .of_event (.write s.buf true) rfl
  append _ := .of_buf rfl (List.prefix_append _ _)
  delay s := .of_event (.delay s.cfg.settleDelay) rfl
  setCarry _ _ := .of_buf rfl List.prefix_rfl
  clearCarry _ := .of_buf rfl List.prefix_rfl
  setTap _ _ := .of_buf rfl List.prefix_rfl
  endSession _ := .of_buf rfl List.prefix_rfl

/-- A frame on the link's turn leaves the block alone (43_link_model.md R221). -/
theorem exec_isFrame_of_link {i : Instr} {s t : State} (hi : isFrame i = true) (hturn : s.turn = .link)
    (h : exec i s = .next t) : ∃ f, t = runOnLink f s := by
  have frame {f : Frame} (hf : exec f.toInstr s = .next t) : ∃ f, t = runOnLink f s :=
    ⟨f, by rw [exec_frame_of_link hturn] at hf; cases hf; rfl⟩
  cases i with
  | wbits b => exact frame (f := .wbits b) h
  | wbytes b => exact frame (f := .wbytes b) h
  | wtms ev d => exact frame (f := .wtms ev d) h
  | rbits n => exact frame (f := .rbits n) h
  | rbytes n => exact frame (f := .rbytes n) h
  | rwbytes b => exact frame (f := .rwbytes b) h
  | _ => cases hi

/-! ## `open` (42_engine.md R180) -/

theorem session_cases (s : State) : s.session = .opened ∨ s.session = .closed := by
  cases s.session <;> simp

/-- What a `TxOpen` that fails leaves: the block as it was (log 10). -/
def State.openFailed (e : TxEvent) (s : State) : State := s.called e (s.called e s.link).lostLink

/-- The session that a `TxOpen` answered with `f` starts. -/
def State.started (e : TxEvent) (dir : PinMask) (s : State) : State :=
  { s.called e ({ s.link with free := s.link.free + 1 }.start s.cfg) with
    session := .opened, dir := dir, buf := [], carryV := false, carryB := false, tap := .tlr }

section
variable (vid pid idx : Nat) (dir : PinMask) (freq : Nat) {s : State}

theorem exec_openSession_of_opened (h : s.session = .opened) :
    exec (.openSession vid pid idx dir freq) s = refuses (.cme .alreadyOpen) s :=
  checked_refuses (by simp [alreadyOpenErr, h])

theorem exec_openSession_of_closed (h : s.session = .closed) :
    exec (.openSession vid pid idx dir freq) s =
      if s.callFails then refuses (.te .openFailed) (s.openFailed (.txOpen vid pid idx dir freq none))
      else
        returns (.freq (openFreq s.link.free s.answer))
          (s.started (.txOpen vid pid idx dir freq (some (openFreq s.link.free s.answer))) dir) := by
  refine (checked_runs (by simp [alreadyOpenErr, h])).trans ?_
  rw [txOpen]
  split <;> rfl

/-- An `open` ends in one of three states. -/
theorem exec_openSession_cases {t : State} (h : exec (.openSession vid pid idx dir freq) s = .next t) :
    (s.session = .opened ∧ t = { s with reply := some (.error (.cme .alreadyOpen)) }) ∨
    (s.session = .closed ∧ t = { s.openFailed (.txOpen vid pid idx dir freq none) with
      reply := some (.error (.te .openFailed)) }) ∨
    ∃ f, s.session = .closed ∧ t = { s.started (.txOpen vid pid idx dir freq (some f)) dir with
      reply := some (.ok (.freq f)) } := by
  obtain hsession | hsession := session_cases s
  · rw [exec_openSession_of_opened vid pid idx dir freq hsession] at h
    cases h
    exact .inl ⟨hsession, rfl⟩
  · rw [exec_openSession_of_closed vid pid idx dir freq hsession] at h
    split at h <;> cases h
    · exact .inr (.inl ⟨hsession, rfl⟩)
    · exact .inr (.inr ⟨_, hsession, rfl⟩)

end

/-- Settles O29: the two ways to end in a closed session, by the answer. -/
theorem openStartsSession : Obligations.OpenStartsSession := by
  unfold Obligations.OpenStartsSession
  intro s vid pid idx freq dir
  refine ⟨exec_openSession_of_opened vid pid idx dir freq, fun hclosed hcall => ?_, fun hclosed hcall => ?_⟩
  · rw [exec_openSession_of_closed vid pid idx dir freq hclosed, if_pos hcall]
    exact ⟨_, rfl⟩
  · rw [exec_openSession_of_closed vid pid idx dir freq hclosed, if_neg (by simp [hcall])]
    refine ⟨_, ({ s.link with free := s.link.free + 1 }.start s.cfg), fun g rest hinp => ?_, rfl, rfl, rfl, rfl⟩
    rw [State.answer, hinp]
    rfl

theorem openSession_appends {vid pid idx : Nat} {dir : PinMask} {freq : Nat} {s t : State}
    (h : exec (.openSession vid pid idx dir freq) s = .next t) : Appends s t := by
  obtain ⟨-, rfl⟩ | ⟨-, rfl⟩ | ⟨f, -, rfl⟩ := exec_openSession_cases vid pid idx dir freq h
  · exact .of_buf rfl List.prefix_rfl
  · exact .of_event _ rfl
  · exact .of_event _ rfl

theorem exec_appends {i : Instr} {s t : State} (h : exec i s = .next t) : Appends s t := by
  have block (hi : needsSession i = true ∨ (isFrame i = true ∧ s.turn = .block)) : Appends s t := by
    obtain ⟨u, x, rfl, hu⟩ := (appends_updateLaw.partLaw.exec hi).state h
    exact ⟨hu.events, hu.buf⟩
  obtain hi | ⟨vid, pid, idx, dir, freq, rfl⟩ | hi | hi := instr_kind i
  · rw [exec_tapGraph_writes hi h]
    exact .of_buf rfl List.prefix_rfl
  · exact openSession_appends h
  · exact block (.inl hi)
  · cases hturn : s.turn with
    | block => exact block (.inr ⟨hi, hturn⟩)
    | link =>
      obtain ⟨f, rfl⟩ := exec_isFrame_of_link hi hturn h
      exact .of_buf rfl List.prefix_rfl

/-- Settles O48: every instruction that adds no event only adds to the buffer. -/
theorem bufferIsAppendOnly : Obligations.BufferIsAppendOnly := by
  unfold Obligations.BufferIsAppendOnly
  intro s t i ht hevents a ha
  obtain ⟨more, hmore⟩ := (exec_appends ht).buf hevents
  rw [← hmore, List.getElem?_append_left ha]

/-! ## The invariants (10_state.md R33) -/

/-- The invariants but that of a closed session: each update of a part keeps them. -/
structure State.BlockInv (s : State) : Prop where
  cfg : s.cfg.wf = true
  buf : s.buf.length ≤ s.cfg.maxFrame
  carry : s.carryV = false → s.carryB = false
  dir : s.dir.fits s.cfg.dirWidth = true
  link : s.link.WellFormed s.cfg

theorem State.Inv.blockInv {s : State} (h : s.Inv) : s.BlockInv :=
  ⟨h.cfg, by simpa [bufferWf] using h.buf, h.carry, h.dir, Link.wf_iff.mp h.link⟩

theorem State.BlockInv.inv {s : State} (h : s.BlockInv) (hclosed : s.session = .closed → s.buf = [] ∧ s.carryV = false) :
    s.Inv :=
  ⟨h.cfg, by simpa [bufferWf] using h.buf, h.carry, hclosed, h.dir, Link.wf_iff.mpr h.link⟩

theorem LinkMove.wellFormed {c : Config} {l l' : Link} (h : LinkMove c l l') (hl : l.WellFormed c) :
    l'.WellFormed c := by
  cases h with
  | stay => exact hl
  | deliver bs => exact hl.congr rfl rfl rfl rfl rfl
  | settle => exact hl.settle
  | takeOut n => exact hl.settle.congr rfl rfl rfl rfl rfl
  | changePins v d => exact hl.changePins v d

theorem blockInv_updateLaw : UpdateLaw fun s t => s.BlockInv → t.BlockInv where
  refl _ := id
  trans h k := k ∘ h
  called _ hl h := ⟨h.cfg, h.buf, h.carry, h.dir, hl.wellFormed h.link⟩
  failed _ _ h := ⟨h.cfg, Nat.zero_le _, fun _ => rfl, h.dir, Link.lose_wellFormed⟩
  sent s h := ⟨h.cfg, Nat.zero_le _, h.carry, h.dir, h.link.congr rfl rfl rfl rfl rfl⟩
  append hfits h := ⟨h.cfg, by rwa [bufAppend_buf, List.length_append], h.carry, h.dir, h.link⟩
  delay _ h := ⟨h.cfg, h.buf, h.carry, h.dir, h.link⟩
  setCarry _ _ h := ⟨h.cfg, h.buf, nofun, h.dir, h.link⟩
  clearCarry _ h := ⟨h.cfg, h.buf, fun _ => rfl, h.dir, h.link⟩
  setTap _ _ h := ⟨h.cfg, h.buf, h.carry, h.dir, h.link⟩
  endSession _ h := ⟨h.cfg, h.buf, h.carry, h.dir, h.link⟩

/-- `close` keeps the session, or ends it with nothing queued and nothing pending (42_engine.md R181). -/
theorem exec_close_cases {s t : State} (h : exec .close s = .next t) :
    t.session = s.session ∨ ((∃ v, t.reply = some (.ok v)) ∧ t.buf = [] ∧ t.carryV = false) := by
  obtain ⟨hclosed, hpending, hends⟩ := closeEndsSession s
  cases hsession : s.session with
  | closed =>
    rw [hclosed hsession] at h
    cases h
    exact .inl hsession
  | opened =>
    by_cases hfree : s.carryFree
    · obtain ⟨hfails, hends⟩ := hends hsession hfree
      by_cases hflush : s.buf ≠ [] ∧ s.callFails = true
      · obtain ⟨l, hl⟩ := hfails hflush.1 hflush.2
        rw [hl] at h
        cases h
        exact .inl hsession
      · obtain ⟨hdone, hfails⟩ := hends _ rfl fun hbuf => by simpa [hbuf] using hflush
        have hflushed : (if s.buf = [] then s else s.sent).buf = [] := by
          split
          · assumption
          · rfl
        have hkept : (if s.buf = [] then s else s.sent).session = .opened := by
          split <;> exact hsession
        cases hcall : (if s.buf = [] then s else s.sent).callFails with
        | false =>
          rw [hdone hcall] at h
          cases h
          exact .inr ⟨⟨_, rfl⟩, hflushed, rfl⟩
        | true =>
          obtain ⟨l, hl⟩ := hfails hcall
          rw [hl] at h
          cases h
          exact .inl hkept
    · rw [hpending hsession hfree] at h
      cases h
      exact .inl hsession

/-- An operation of a session does not leave a closed one with anything queued or pending. -/
theorem exec_closed_clear {s t : State} {i : Instr} (hs : s.session = .closed → s.buf = [] ∧ s.carryV = false)
    (hi : needsSession i = true ∨ (isFrame i = true ∧ s.turn = .block)) (h : exec i s = .next t)
    (hclosed : t.session = .closed) : t.buf = [] ∧ t.carryV = false := by
  cases hsession : s.session with
  | closed =>
    rw [closedSessionRefuses.1 s i hsession hi] at h
    cases h
    exact hs hsession
  | opened =>
    by_cases hclose : i = .close
    · subst hclose
      obtain hkept | ⟨-, hclear⟩ := exec_close_cases h
      · rw [hclosed, hsession] at hkept
        cases hkept
      · exact hclear
    · have hwrites : writesSession i = false := by
        cases i with
        | openSession => simp [needsSession, isFrame] at hi
        | close => exact absurd rfl hclose
        | _ => rfl
      have hturn : isFrame i = true → s.turn = .block := by
        obtain hi | ⟨-, hturn⟩ := hi
        · simp [isFrame_of_needsSession hi]
        · exact fun _ => hturn
      have hkept := (exec_endsWithin_tableRow i s hturn t h).session (by simpa [tableRow] using hwrites)
      rw [hclosed, hsession] at hkept
      cases hkept

theorem openSession_keeps_inv {vid pid idx : Nat} {dir : PinMask} {freq : Nat} {s t : State} (hs : s.Inv)
    (hdir : dir.fits s.cfg.dirWidth = true) (h : exec (.openSession vid pid idx dir freq) s = .next t) : t.Inv := by
  have hb := hs.blockInv
  obtain ⟨-, rfl⟩ | ⟨-, rfl⟩ | ⟨f, -, rfl⟩ := exec_openSession_cases vid pid idx dir freq h
  · exact ⟨hs.cfg, hs.buf, hs.carry, hs.closed, hs.dir, hs.link⟩
  · exact ⟨hs.cfg, hs.buf, hs.carry, hs.closed, hs.dir, Link.wf_iff.mpr Link.lose_wellFormed⟩
  · exact State.BlockInv.inv ⟨hs.cfg, Nat.zero_le _, fun _ => rfl, hdir, Link.unknown_wellFormed _ _⟩ nofun

/-- Every instruction the block runs keeps the invariants; an `open` with a mask of `DIR_WIDTH` bits. -/
theorem exec_keeps_inv {i : Instr} {s t : State} (hs : s.Inv) (hturn : s.turn = .block)
    (hi : i.wellFormed s.cfg = true ∨ isFrame i = true) (h : exec i s = .next t) : t.Inv := by
  have session (hi : needsSession i = true ∨ (isFrame i = true ∧ s.turn = .block)) : t.Inv := by
    obtain ⟨u, x, rfl, hu⟩ := (blockInv_updateLaw.partLaw.exec hi).state (R := fun s t => s.BlockInv → t.BlockInv) h
    have hb := hu hs.blockInv
    exact State.BlockInv.inv ⟨hb.cfg, hb.buf, hb.carry, hb.dir, hb.link⟩ (exec_closed_clear hs.closed hi h)
  obtain hgraph | ⟨vid, pid, idx, dir, freq, rfl⟩ | hsession | hframe := instr_kind i
  · rw [exec_tapGraph_writes hgraph h]
    exact ⟨hs.cfg, hs.buf, hs.carry, hs.closed, hs.dir, hs.link⟩
  · exact openSession_keeps_inv hs (by simpa [Instr.wellFormed, isFrame] using hi) h
  · exact session (.inl hsession)
  · exact session (.inr ⟨hframe, hturn⟩)

/-! ### What a request decodes to -/

theorem noOperand_eq_some {arg : List Byte} {i j : Instr} (h : noOperand arg i = some j) : j = i := by
  rw [noOperand] at h
  split at h <;> cases h
  rfl

/-- An `open` that a line decodes to has a mask that fits (log 16). -/
theorem parseOpen_fits {c : Config} {t : List Byte} {i : Instr} (h : parseOpen c t = some i) :
    i.wellFormed c = true := by
  rw [parseOpen] at h
  split at h
  · simp only [Option.bind_eq_some_iff, Option.map_eq_some_iff, parseMask] at h
    obtain ⟨_, -, _, -, _, -, dir, ⟨n, -, hn⟩, _, -, rfl⟩ := h
    split at hn <;> cases hn
    assumption
  · cases h

theorem wellFormed_of_map {α : Type} {c : Config} {o : Option α} {mk : α → Instr} {i : Instr}
    (hmk : ∀ x, (mk x).wellFormed c = true) (h : o.map mk = some i) : i.wellFormed c = true := by
  obtain ⟨x, -, rfl⟩ := Option.map_eq_some_iff.mp h
  exact hmk x

theorem wellFormed_of_noOperand {c : Config} {arg : List Byte} {i j : Instr} (hi : i.wellFormed c = true)
    (h : noOperand arg i = some j) : j.wellFormed c = true := by
  rwa [noOperand_eq_some h]

/-- Every operation that a line decodes to is well formed. -/
theorem opTable_wellFormed (c : Config) :
    ∀ row ∈ opTable c, ∀ (arg : List Byte) (i : Instr), row.2 arg = some i → i.wellFormed c = true := by
  have bare (i : Instr) (hi : i.wellFormed c = true) (arg : List Byte) (j : Instr) (h : noOperand arg i = some j) :=
    wellFormed_of_noOperand hi h
  have mapped {α : Type} (read : List Byte → Option α) (mk : α → Instr) (hmk : ∀ x, (mk x).wellFormed c = true)
      (arg : List Byte) (i : Instr) (h : (read arg).map mk = some i) := wellFormed_of_map hmk h
  simp only [opTable, List.forall_mem_append, List.forall_mem_cons]
  refine ⟨⟨⟨⟨bare _ rfl, bare _ rfl, mapped _ _ fun _ => rfl, mapped _ _ fun _ => rfl, mapped _ _ fun _ => rfl,
    mapped _ _ fun _ => rfl, bare _ rfl, nofun⟩, mapped _ _ fun _ => rfl, mapped _ _ fun _ => rfl,
    mapped _ _ fun _ => rfl, mapped _ _ fun _ => rfl, mapped _ _ fun _ => rfl, mapped _ _ fun _ => rfl,
    mapped _ _ fun _ => rfl, mapped _ _ fun _ => rfl, nofun⟩, fun _ _ => parseOpen_fits, bare _ rfl,
    mapped _ _ fun _ => rfl, bare _ rfl, mapped _ _ fun _ => rfl, mapped _ _ fun _ => rfl, mapped _ _ fun _ => rfl,
    bare _ rfl, nofun⟩, bare _ rfl, mapped _ _ fun _ => rfl, bare _ rfl, mapped _ _ fun _ => rfl, bare _ rfl, nofun⟩

theorem decodeOp_wellFormed {c : Config} {name arg : List Byte} {i : Instr} (h : decodeOp c name arg = .ok i) :
    i.wellFormed c = true := by
  rw [decodeOp] at h
  split at h
  · cases h
  · next row hrow =>
    split at h
    · cases h
    · next j hj =>
      cases h
      exact opTable_wellFormed c row (List.mem_of_find?_eq_some hrow) arg _ hj

theorem isFrame_toInstr (f : Frame) : isFrame f.toInstr = true := by
  cases f <;> rfl

/-- What a request decodes to the block can run: a frame, or an operation that is well formed. -/
theorem decode_wellFormed {c : Config} {form : Form} {bs rest : List Byte} {i : Instr}
    (h : decode c form bs = .ok (i, rest)) : i.wellFormed c = true ∨ isFrame i = true := by
  cases form with
  | frame =>
    rw [decode] at h
    split at h <;> cases h
    exact .inr (isFrame_toInstr _)
  | line =>
    rw [decode] at h
    split at h
    · next j hj =>
      cases h
      exact .inl (decodeOp_wellFormed hj)
    · cases h

/-! ### A step -/

theorem runOnLink_keeps_inv {s : State} (hs : s.Inv) (f : Frame) : (runOnLink f s).Inv :=
  ⟨hs.cfg, hs.buf, hs.carry, hs.closed, hs.dir, Link.wf_iff.mpr ((Link.wf_iff.mp hs.link).runFrame f)⟩

/-- The link alone has changed, and is well formed. -/
theorem State.Inv.withLink {s : State} (hs : s.Inv) {l : Link} (hl : l.WellFormed s.cfg) : { s with link := l }.Inv :=
  ⟨hs.cfg, hs.buf, hs.carry, hs.closed, hs.dir, Link.wf_iff.mpr hl⟩

theorem fetchFrame_keeps_inv {s : State} (hs : s.Inv) (n : Nat) : (s.fetchFrame n).Inv :=
  ⟨hs.cfg, hs.buf, hs.carry, hs.closed, hs.dir, hs.link⟩

theorem fetchRequest_keeps_inv {s : State} (hs : s.Inv) (r : Request) (rs : List Request) : (s.fetchRequest r rs).Inv :=
  ⟨hs.cfg, hs.buf, hs.carry, hs.closed, hs.dir, hs.link⟩

/-- A step on the host's side: a request that decodes runs, and there is nothing to do without one. -/
theorem fetchFromHost_instr {s u : State} {i : Instr} (h : fetchFromHost s = .instr i u) :
    (∃ r rs, u = s.fetchRequest r rs) ∧ (i.wellFormed s.cfg = true ∨ isFrame i = true) := by
  rw [fetchFromHost] at h
  split at h
  · cases h
  · split at h <;> cases h
    next hdecode => exact ⟨⟨_, _, rfl⟩, decode_wellFormed hdecode⟩

theorem fetchFromHost_not_lost {s u : State} : fetchFromHost s ≠ .lost u := by
  rw [fetchFromHost]
  split
  · simp
  · split <;> simp

/-- What a step does: a frame on the link's turn, a discard, a request on the block's turn, or nothing. -/
theorem step_cases {s t : State} (h : step s = .next t) :
    (∃ f n, t = runOnLink f (s.fetchFrame n)) ∨ t = { s with link := s.link.discard s.cfg } ∨
    t = { s with link := s.link.garble s.cfg } ∨
    (∃ i r rs, (i.wellFormed s.cfg = true ∨ isFrame i = true) ∧ exec i (s.fetchRequest r rs) = .next t) ∨ t = s := by
  rw [step] at h
  cases hfetch : fetch s with
  | instr i u =>
    rw [hfetch] at h
    rw [fetch] at hfetch
    split at hfetch
    · next f rest _ =>
      cases hfetch
      simp only [exec_frame_of_link (f := f) (s := s.fetchFrame rest.length) rfl] at h
      cases h
      exact .inl ⟨f, _, rfl⟩
    · obtain ⟨⟨r, rs, rfl⟩, hi⟩ := fetchFromHost_instr hfetch
      exact .inr (.inr (.inr (.inl ⟨i, r, rs, hi, h⟩)))
    · cases hfetch
    · cases hfetch
  | lost u =>
    rw [hfetch] at h
    cases h
    rw [fetch] at hfetch
    split at hfetch
    · cases hfetch
    · exact absurd hfetch fetchFromHost_not_lost
    · cases hfetch
      exact .inr (.inl rfl)
    · cases hfetch
      exact .inr (.inr (.inl rfl))
  | idle =>
    rw [hfetch] at h
    cases h
    exact .inr (.inr (.inr (.inr rfl)))
  | bad why =>
    rw [hfetch] at h
    cases h

/-- Settles O51: each kind of step keeps the invariants. -/
theorem stepKeepsInvariant : Obligations.StepKeepsInvariant := by
  unfold Obligations.StepKeepsInvariant
  intro s t hs h
  obtain ⟨f, n, rfl⟩ | rfl | rfl | ⟨i, r, rs, hi, hexec⟩ | rfl := step_cases h
  · exact runOnLink_keeps_inv (fetchFrame_keeps_inv hs n) f
  · exact hs.withLink Link.discard_wellFormed
  · exact hs.withLink Link.garble_wellFormed
  · exact exec_keeps_inv (fetchRequest_keeps_inv hs r rs) rfl hi hexec
  · exact hs

/-- Settles O50: each invariant is one of `State.reset`'s values. -/
theorem invariantAtPowerOn : Obligations.InvariantAtPowerOn :=
  ⟨by decide, by decide, fun _ => rfl, fun _ => ⟨rfl, rfl⟩, by decide, Link.wf_iff.mpr (Link.unknown_wellFormed _ _)⟩

end Sys2Proof.Machine

/-! # What a transport error leaves (spec/41_framing.md R141, spec/60_exceptions.md R257) -/

namespace Sys2Proof.Machine

/-- The link is what a failed call leaves it as, seen from the calls of the operation (log 9). -/
def LostAt (t : State) : Prop :=
  ∃ u : State, u.cfg = t.cfg ∧ u.began = t.began ∧ u.events = t.events ∧ t.link = u.lostLink

/-- A state a transport error of a call but `TxOpen` leaves (R141). -/
structure Aborted (e : Err) (t : State) : Prop where
  cause : e ≠ .te .openFailed
  buf : t.buf = []
  carryV : t.carryV = false
  carryB : t.carryB = false
  lost : LostAt t

/-- Where the part ends with a transport error, that is what it leaves. -/
def AbortsWell {α : Type} (r : Res α) : Prop := ∀ cause t, r = .err (.te cause) t → Aborted (.te cause) t

section
variable {α β : Type}

theorem abortsWell_ok (a : α) (s : State) : AbortsWell (.ok a s) := fun _ _ h => by cases h

theorem abortsWell_fail {cause : TeCause} (hcause : cause ≠ .openFailed) (s : State) :
    AbortsWell (transportFail cause s : Res α) := by
  intro cause' t h
  cases h
  exact ⟨by simpa using hcause, rfl, rfl, rfl, s, rfl, rfl, rfl, rfl⟩

theorem AbortsWell.bind {r : Res α} {f : α → State → Res β} (h : AbortsWell r) (k : ∀ a t, AbortsWell (f a t)) :
    AbortsWell (r.bind f) := by
  cases r with
  | ok a t => exact k a t
  | err e t =>
    intro cause u hu
    cases hu
    exact h cause t rfl

end

theorem txWrite_abortsWell (bs : List Byte) (s : State) : AbortsWell (txWrite bs s) := by
  rw [txWrite]
  split
  · exact abortsWell_fail (by decide) _
  · exact abortsWell_ok _ _

theorem flushBuf_abortsWell (s : State) : AbortsWell (flushBuf s) := by
  rw [flushBuf]
  split
  · exact (txWrite_abortsWell _ s).bind fun _ _ => abortsWell_ok _ _
  · exact abortsWell_ok _ _

theorem abortsWell_refuse {α : Type} {e : Err} (s : State) (he : e.isEarly = true) : AbortsWell (.err e s : Res α) := by
  intro cause t h
  cases h
  cases he

theorem abortsWell_partLaw : PartLaw fun _ _ r => AbortsWell r where
  ok := abortsWell_ok
  refuse s he := abortsWell_refuse s he
  bind := AbortsWell.bind
  flushBuf := flushBuf_abortsWell
  queueBytes f s := by
    have hcheck := frameErr_early s.cfg f.length
    rw [queueBytes]
    obtain ⟨-, hk⟩ | ⟨e, he, hk⟩ := check_cases [frameErr s.cfg f.length] s _ <;> rw [hk]
    · refine AbortsWell.bind ?_ fun _ _ => abortsWell_ok _ _
      split
      · exact flushBuf_abortsWell s
      · exact abortsWell_ok _ _
    · exact abortsWell_refuse s (hcheck e (List.mem_singleton.mp he).symm)
  txRead n s := by
    simp only [txRead]
    split
    · exact abortsWell_fail (by decide) _
    · split
      · exact abortsWell_ok _ _
      · exact abortsWell_fail (by decide) _
  txSetPins v s := by
    rw [txSetPins]
    split
    · exact abortsWell_fail (by decide) _
    · exact abortsWell_ok _ _
  txClose s := by
    rw [txClose]
    split
    · exact abortsWell_fail (by decide) _
    · exact abortsWell_ok _ _
  delay _ := abortsWell_ok _ _
  setCarry _ _ := abortsWell_ok _ _
  clearCarry _ := abortsWell_ok _ _
  setTap _ _ := abortsWell_ok _ _
  endSession _ := abortsWell_ok _ _

theorem PartLaw.Delivers.aborted {s t : State} {o : Host.Outcome State Fault Refusal} {cause : TeCause}
    (h : PartLaw.Delivers (fun _ _ r => AbortsWell r) s o) (ht : o = .next t)
    (hreply : t.reply = some (.error (.te cause))) : Aborted (.te cause) t := by
  obtain ⟨_, v, r, rfl, hr⟩ := h
  obtain ⟨a, u, rfl, hd⟩ | ⟨e, u, rfl, hd⟩ := deliver_cases v r <;> rw [hd] at ht <;> cases ht
  · cases hreply
  · cases hreply
    obtain ⟨hcause, hbuf, hv, hb, w, hw⟩ := hr cause u rfl
    exact ⟨hcause, hbuf, hv, hb, w, hw⟩

/-- A TapGraph operation makes no transport call. -/
theorem exec_tapGraph_no_te {i : Instr} {s t : State} (hi : writesBuf i = false) (h : exec i s = .next t)
    (cause : TeCause) : t.reply ≠ some (.error (.te cause)) := by
  cases i with
  | currentState | gReset | applyEvents => cases h; simp
  | findPath target source =>
    simp only [exec, execFindPath] at h
    split at h <;> cases h <;> simp
  | pathToEvents path =>
    simp only [exec, execPathToEvents] at h
    split at h <;> cases h <;> simp
  | _ => cases hi

/-- After a transport error: an `open` has failed and the block is as it was, or another operation has been aborted. -/
theorem exec_te_cases {i : Instr} {s t : State} {cause : TeCause} (h : exec i s = .next t)
    (hturn : isFrame i = true → s.turn = .block) (hreply : t.reply = some (.error (.te cause))) :
    (∃ vid pid idx dir freq e, i = .openSession vid pid idx dir freq ∧ cause = .openFailed ∧
      t = { s.openFailed e with reply := some (.error (.te .openFailed)) }) ∨
    ((needsSession i = true ∨ isFrame i = true) ∧ Aborted (.te cause) t) := by
  obtain hi | ⟨vid, pid, idx, dir, freq, rfl⟩ | hi | hi := instr_kind i
  · exact absurd hreply (exec_tapGraph_no_te hi h cause)
  · obtain ⟨-, rfl⟩ | ⟨-, rfl⟩ | ⟨f, -, rfl⟩ := exec_openSession_cases vid pid idx dir freq h
    · cases hreply
    · cases hreply
      exact .inl ⟨vid, pid, idx, dir, freq, _, rfl, rfl, rfl⟩
    · cases hreply
  · exact .inr ⟨.inl hi, (abortsWell_partLaw.exec (.inl hi)).aborted h hreply⟩
  · exact .inr ⟨.inr hi, (abortsWell_partLaw.exec (.inr ⟨hi, hturn hi⟩)).aborted h hreply⟩

/-! ## What the block keeps -/

/-- The calls of a reset leave the pointer, whatever the parameters (42_engine.md R187). -/
theorem resetCalls_keeps_tap {s t : State} {e : Err} (h : resetCalls s = .err e t) : t.tap = s.tap := by
  have hcalls : RunsWithin (tableRow (.writeTms [])) s (resetCalls s) :=
    (flushBuf_runsWithin s).bind fun _ t =>
      ((txSetPins_runsWithin _ t).bind fun _ u =>
        (RunsWithin.after (delay_confined u) (txSetPins_runsWithin _ _)).bind_pure fun _ v =>
          delay_confined v).bind fun _ w => (writeTms_runsWithin rfl _ w).bind fun _ x => flushBuf_runsWithin x
  exact (hcalls.err e t h).tap (by simp [tableRow, writesTap])

theorem exec_reset_te_tap {s t : State} {cause : TeCause} (h : exec .reset s = .next t)
    (hreply : t.reply = some (.error (.te cause))) : t.tap = s.tap := by
  obtain hopen | hclosed := session_cases s
  · rw [exec_reset hopen] at h
    cases hr : resetCalls s with
    | ok _ u =>
      rw [hr] at h
      cases h
      cases hreply
    | err e u =>
      rw [hr] at h
      cases h
      exact (resetCalls_keeps_tap hr :)
  · rw [closedSessionRefuses.1 s .reset hclosed (.inl rfl)] at h
    cases h
    cases hreply

/-- Of an operation that needs a session a transport error keeps it. -/
theorem exec_te_session {i : Instr} {s t : State} {cause : TeCause} (h : exec i s = .next t)
    (hi : needsSession i = true ∨ isFrame i = true) (hturn : isFrame i = true → s.turn = .block)
    (hreply : t.reply = some (.error (.te cause))) : t.session = s.session ∧ t.dir = s.dir := by
  obtain ⟨-, -, -, -, -, -, hsession, hdir, -⟩ := writeAccessTable s t i h hturn
  cases i with
  | openSession => simp [needsSession, isFrame] at hi
  | close =>
    obtain hkept | ⟨⟨v, hv⟩, -⟩ := exec_close_cases h
    · exact ⟨hkept, hdir rfl⟩
    · rw [hreply] at hv
      cases hv
  | _ => exact ⟨hsession rfl, hdir rfl⟩

/-- Settles O45: a failed `open` leaves the block; another operation is aborted. -/
theorem transportErrorEmptiesBlock : Obligations.TransportErrorEmptiesBlock := by
  unfold Obligations.TransportErrorEmptiesBlock
  intro s t i cause h hturn hreply
  have hevents : s.events <+: t.events := (exec_appends h).events
  obtain ⟨vid, pid, idx, dir, freq, e, rfl, rfl, rfl⟩ | ⟨hi, hab⟩ := exec_te_cases h hturn hreply
  · exact ⟨rfl, rfl, hevents, fun _ => ⟨rfl, rfl, rfl, rfl⟩, absurd rfl, nofun⟩
  · obtain ⟨hsession, hdir⟩ := exec_te_session h hi hturn hreply
    refine ⟨hsession, hdir, hevents, fun hcause => absurd (hcause ▸ rfl) hab.cause,
      fun _ => ⟨hab.buf, hab.carryV, hab.carryB⟩, ?_⟩
    rintro rfl
    exact exec_reset_te_tap h hreply

/-! ## What is known of the link -/

theorem lostAt_of_te {i : Instr} {s t : State} {cause : TeCause} (h : exec i s = .next t)
    (hturn : isFrame i = true → s.turn = .block) (hreply : t.reply = some (.error (.te cause))) : LostAt t := by
  obtain ⟨vid, pid, idx, dir, freq, e, -, -, rfl⟩ | ⟨-, hab⟩ := exec_te_cases h hturn hreply
  · exact ⟨s.called e s.link, rfl, rfl, rfl, rfl⟩
  · exact hab.lost

/-- A link with less than a frame on its wire, `out` to be read, and nothing on the wire if `empty`. -/
structure Link.Still (c : Config) (out : List Byte) (empty : Prop) (l : Link) : Prop where
  truncated : decodeFrame c l.stream = .error .truncated
  out : l.out = out
  stream : empty → l.stream = []

theorem Link.Still.changePins {c : Config} {out : List Byte} {empty : Prop} {l : Link} (h : l.Still c out empty)
    (v d : PinMask) : (l.changePins c v d).Still c out empty := by
  obtain ⟨hout, -, htorn, hwhole⟩ := changePins_spec c v d l
  rw [settle_truncated_eq h.truncated] at hout hwhole
  cases hl : l.torn with
  | true =>
    have hnil : (l.changePins c v d).stream = [] := congrArg List.flatten (htorn hl)
    exact ⟨by rw [hnil]; rfl, hout.trans h.out, fun _ => hnil⟩
  | false =>
    have hsame : (l.changePins c v d).stream = l.stream := congrArg List.flatten (hwhole hl)
    exact ⟨hsame ▸ h.truncated, hout.trans h.out, fun he => hsame.trans (h.stream he)⟩

/-- Calls that move no bytes leave such a link so (20_memory.md R58). -/
theorem Link.Still.replayAll {c : Config} {out : List Byte} {empty : Prop} {l : Link} {n : Nat} {es : List TxEvent}
    (h : l.Still c out empty) (hes : ∀ e ∈ es, movesBytes e = false) : (l.replayAll c n es).Still c out empty := by
  induction es generalizing l n with
  | nil => exact h
  | cons e es ih =>
    refine ih ?_ fun e' he' => hes e' (by simp [he'])
    obtain heq | ⟨v, d, heq⟩ := replay_still (c := c) (n := n) (l := l) (hes e (by simp)) <;> rw [heq]
    · exact h
    · exact h.changePins v d

/-- Settles O46: what `lostLink` is, and what a replay that moves no bytes leaves. -/
theorem transportErrorLosesRemote : Obligations.TransportErrorLosesRemote := by
  unfold Obligations.TransportErrorLosesRemote
  intro s t i cause h hturn hreply
  obtain ⟨u, hcfg, hbegan, hevents, hlink⟩ := lostAt_of_te h hturn hreply
  obtain ⟨htcfg, -, -, htbegan, -⟩ := writeAccessTable s t i h hturn
  obtain ⟨hposs, htms, -, htruncated⟩ := lostLink_spec u
  rw [hlink]
  refine ⟨hposs, htms, hcfg ▸ htruncated, fun hstart hmoves => ?_⟩
  have hbegin : ({ u.began.link with free := u.link.free + u.calls.length } : Link).Still u.cfg s.began.link.out
      (s.began.link.wire.flatten = []) := by
    rw [hbegan, htbegan, hcfg, htcfg]
    exact ⟨hstart, rfl, id⟩
  have hcalls : ∀ e ∈ u.calls, movesBytes e = false := by
    rwa [State.calls, hevents, hbegan, htbegan]
  have hstill := hbegin.replayAll (n := u.link.free) hcalls
  have hsettled := settle_truncated_eq hstill.truncated
  rw [State.lostLink, hsettled]
  exact ⟨hstill.out, hstill.stream⟩

end Sys2Proof.Machine

/-! # Operations whose frames fit and whose calls are answered (spec/41_framing.md, spec/42_engine.md)

The exact state each part leaves then, and each operation from its parts. -/

namespace Sys2Proof.Machine

/-- Settles O18: `writeSeq_of_fits` behind the session check. -/
theorem writeDefersLastBit : Obligations.WriteDefersLastBit := by
  unfold Obligations.WriteDefersLastBit
  intro s b hopen hfree hne hmax hfits
  have hwrite := (writeErr_eq_none s.cfg b).mpr ⟨by simpa using hne, hmax⟩
  have hexec : exec (.write b) s = deliver noValue (writeSeq b s) := checked_runs (by simp [hopen])
  rw [hexec, writeSeq_of_fits hwrite hfree hfits]
  rfl

/-! ## Routes -/

theorem writeTms_of_fits {ev : Bits} {s : State} (hev : 1 ≤ ev.length ∧ ev.length ≤ s.cfg.tmsMaxEvents)
    (h : s.fits (encodeFrame s.cfg (.wtms ev (tdiSlot s))).length) :
    writeTms ev s = .ok () (clearCarry (bufAppend (encodeFrame s.cfg (.wtms ev (tdiSlot s))) s)) := by
  rw [writeTms, (tmsErr_eq_none _ _).mpr hev, check_none, check_nil, emit, queueBytes_fits h, bind_ok]

/-- Frames queued that take the pointer to `t` and the carry with them. -/
def State.moved (frames : List Byte) (t : Tap) (s : State) : State :=
  { s with buf := s.buf ++ frames, tap := t, carryV := false, carryB := false }

@[simp] theorem moved_cfg (frames : List Byte) (t : Tap) (s : State) : (s.moved frames t).cfg = s.cfg := rfl
@[simp] theorem moved_tap (frames : List Byte) (t : Tap) (s : State) : (s.moved frames t).tap = t := rfl
@[simp] theorem moved_inp (frames : List Byte) (t : Tap) (s : State) : (s.moved frames t).inp = s.inp := rfl
@[simp] theorem moved_prov (frames : List Byte) (t : Tap) (s : State) : (s.moved frames t).prov = s.prov := rfl
@[simp] theorem moved_carryV (frames : List Byte) (t : Tap) (s : State) : (s.moved frames t).carryV = false := rfl
@[simp] theorem moved_buf (frames : List Byte) (t : Tap) (s : State) : (s.moved frames t).buf = s.buf ++ frames := rfl

theorem moved_carryFree (frames : List Byte) (t : Tap) (s : State) : (s.moved frames t).carryFree := fun _ => rfl

@[simp] theorem tdiSlot_moved (frames : List Byte) (t : Tap) (s : State) :
    tdiSlot (s.moved frames t) = s.cfg.tmsTdiDefault := rfl

@[simp] theorem moved_moved (f g : List Byte) (t u : Tap) (s : State) :
    (s.moved f t).moved g u = s.moved (f ++ g) u := by
  simp [State.moved]

/-- What a change of state leaves where its frames fit (R182). -/
def State.routed (t : Tap) (s : State) : State :=
  if s.tap = t then s else s.moved (routeFrames s.cfg s.tap t (tdiSlot s)) t

theorem routed_self {t : Tap} {s : State} (h : s.tap = t) : s.routed t = s := if_pos h

theorem routed_of_ne {t : Tap} {s : State} (h : s.tap ≠ t) :
    s.routed t = s.moved (routeFrames s.cfg s.tap t (tdiSlot s)) t := if_neg h

theorem routeFrames_self (c : Config) (t : Tap) (d : Bool) : routeFrames c t t d = [] := by
  cases t <;> rfl

@[simp] theorem routed_cfg (t : Tap) (s : State) : (s.routed t).cfg = s.cfg := by
  rw [State.routed]
  split <;> rfl

@[simp] theorem routed_inp (t : Tap) (s : State) : (s.routed t).inp = s.inp := by
  rw [State.routed]
  split <;> rfl

@[simp] theorem routed_tap (t : Tap) (s : State) : (s.routed t).tap = t := by
  rw [State.routed]
  split
  · assumption
  · rfl

@[simp] theorem routed_buf (t : Tap) (s : State) :
    (s.routed t).buf = s.buf ++ routeFrames s.cfg s.tap t (tdiSlot s) := by
  rw [State.routed]
  split
  · next h => rw [h, routeFrames_self, List.append_nil]
  · rfl

/-- A move after a change of state is one move of both. -/
theorem moved_routed (frames : List Byte) (t u : Tap) (s : State) :
    (s.routed t).moved frames u = s.moved (routeFrames s.cfg s.tap t (tdiSlot s) ++ frames) u := by
  rw [State.routed]
  split
  · next h => rw [h, routeFrames_self, List.nil_append]
  · rw [moved_moved]

/-- A move takes the carry with it, whatever it is. -/
theorem moved_setCarry (frames data : List Byte) (b : Bool) (t : Tap) (s : State) :
    (setCarry b (bufAppend data s)).moved frames t = s.moved (data ++ frames) t := by
  simp [State.moved, setCarry, bufAppend]

theorem routed_carryFree {t : Tap} {s : State} (h : s.carryFree) : (s.routed t).carryFree := by
  rw [State.routed]
  split
  · exact h
  · exact fun _ => rfl

/-- The pending carry is still there only where the pointer was at the target already. -/
theorem tdiSlot_routed (t : Tap) (s : State) :
    tdiSlot (s.routed t) = if s.tap = t ∧ s.carryV = true then s.carryB else s.cfg.tmsTdiDefault := by
  by_cases h : s.tap = t
  · rw [routed_self h, tdiSlot]
    simp [h]
  · rw [routed_of_ne h, tdiSlot_moved]
    simp [h]

/-- `CHANGE_STATE(t)` where its frames fit (R182). -/
theorem changeState_of_fits {t : Tap} {s : State} (hwf : s.cfg.wf = true)
    (h : s.fits (routeFrames s.cfg s.tap t (tdiSlot s)).length) : changeState t s = .ok () (s.routed t) := by
  by_cases hself : s.tap = t
  · rw [routed_self hself, ← hself, changeState_self]
  · obtain ⟨-, hnil, hlen⟩ := route_routeEvents hself
    have hmax := Config.tmsMaxEvents_ge hwf
    have hpos := List.length_pos_iff.mpr hnil
    rw [routeFrames, if_neg hnil] at h
    rw [changeState_of_ne hwf hself rfl, routed_of_ne hself, routeFrames, if_neg hnil]
    generalize routeEvents s.tap t = ev at *
    have hfirst : 1 ≤ (ev.take s.cfg.tmsMaxEvents).length ∧
        (ev.take s.cfg.tmsMaxEvents).length ≤ s.cfg.tmsMaxEvents := by
      rw [List.length_take]
      omega
    by_cases hrest : ev.drop s.cfg.tmsMaxEvents = []
    · rw [if_pos hrest, List.append_nil] at h
      rw [writeTms_of_fits hfirst h, bind_ok, if_pos hrest, if_pos hrest, List.append_nil]
      rfl
    · rw [if_neg hrest, State.fits, List.length_append] at h
      have hsecond : 1 ≤ (ev.drop s.cfg.tmsMaxEvents).length ∧
          (ev.drop s.cfg.tmsMaxEvents).length ≤ s.cfg.tmsMaxEvents := by
        have := List.length_pos_iff.mpr hrest
        rw [List.length_drop] at this ⊢
        omega
      rw [writeTms_of_fits hfirst (by rw [State.fits]; omega), bind_ok, if_neg hrest, if_neg hrest, sendTms,
        writeTms_of_fits (s := clearCarry (bufAppend (encodeFrame s.cfg (.wtms (ev.take s.cfg.tmsMaxEvents) (tdiSlot s)))
          s)) hsecond]
      · simp [sendTms, State.moved, clearCarry, bufAppend, tdiSlot]
      · rw [State.fits, clearCarry_buf, bufAppend_buf, List.length_append, Nat.add_assoc]
        exact h

/-- Settles O32: `changeState_of_fits` behind the session check. -/
theorem changeStateQueuesRoute : Obligations.ChangeStateQueuesRoute := by
  unfold Obligations.ChangeStateQueuesRoute
  intro s i t hi
  obtain ⟨hclosed, hself, -⟩ := changeStateIsItsParts s i t hi
  refine ⟨hclosed, hself, fun hwf hopen hne hfits => ?_⟩
  rw [exec_changeState_or_goIdle hi, checked_runs (by simp [hopen]), changeState_of_fits hwf hfits, routed_of_ne hne]
  rfl

/-- The pieces of a route leave the pointer, or the overflow flush has failed (R182, R141). -/
theorem sendTms_attempts {ps : List Bits} {s : State} (hps : ∀ p ∈ ps, 1 ≤ p.length ∧ p.length ≤ s.cfg.tmsMaxEvents)
    (hsize : 3 ≤ s.cfg.maxFrame) : Attempts [.writeFailed] s (sendTms ps s) := by
  induction ps generalizing s with
  | nil => exact .pure _ (.refl s) rfl
  | cons p ps ih =>
    have hp := writeTms_attempts (causes := [.writeFailed]) (by simp) (hps p (by simp)) hsize
    refine hp.bind fun _ t ht => ?_
    obtain ⟨hkept, -⟩ := hp.ok _ t ht
    exact ih (by rw [hkept.cfg]; exact fun q hq => hps q (by simp [hq])) (by rw [hkept.cfg]; exact hsize)

theorem changeState_fails {t : Tap} {s u : State} {e : Err} (hwf : s.cfg.wf = true)
    (h : changeState t s = .err e u) : Failed .writeFailed s u e := by
  have hmax := Config.tmsMaxEvents_ge hwf
  have hsize := Config.maxFrame_ge hwf
  obtain ⟨ev, hroute, -⟩ := route_ok s.tap t
  rw [changeState_of_route hroute] at h
  obtain h | ⟨_, v, -, h⟩ := bind_eq_err.mp h
  · have hpieces := sendTms_attempts (s := s) (fun p hp => chunks_spec ev.length _ ev (by omega) p hp) (by omega)
    obtain ⟨cause, hcause, hfailed⟩ := hpieces.err e u h
    rwa [List.mem_singleton.mp hcause] at hfailed
  · cases h

/-- A route with a piece leaves neither the carry nor its value (R182). -/
theorem sendTms_clears {p : Bits} {ps : List Bits} {s t : State} (h : sendTms (p :: ps) s = .ok () t) :
    t.carryV = false ∧ t.carryB = false := by
  induction ps generalizing p s with
  | nil =>
    obtain ⟨_, u, hu, ht⟩ := bind_eq_ok.mp h
    cases ht
    exact writeTms_clears hu
  | cons q ps ih =>
    obtain ⟨_, u, -, ht⟩ := bind_eq_ok.mp h
    exact ih ht

theorem changeState_clears {t : Tap} {s u : State} (hne : s.tap ≠ t) (h : changeState t s = .ok () u) :
    u.carryV = false ∧ u.carryB = false := by
  obtain ⟨hroute, hnil, -⟩ := route_routeEvents hne
  rw [changeState_of_route hroute, chunks_of_ne_nil hnil] at h
  obtain ⟨_, v, hv, hu⟩ := bind_eq_ok.mp h
  cases hu
  exact (sendTms_clears hv :)

/-- Settles O33: the two ways `CHANGE_STATE` ends. -/
theorem changeStateMovesOrFails : Obligations.ChangeStateMovesOrFails := by
  unfold Obligations.ChangeStateMovesOrFails
  intro s i t hi hwf hopen
  rw [exec_changeState_or_goIdle hi, checked_runs (by simp [hopen])]
  cases hr : changeState t s with
  | ok _ u =>
    have hkept := (changeState_runs_of_wf hwf t).ok _ u hr
    refine ⟨_, rfl, hkept.session, hkept.dir, hkept.cfg, .inl ⟨rfl, (changeState_tap hr :), fun hne => ?_⟩⟩
    exact (changeState_clears hne hr :)
  | err e u =>
    have hfailed := changeState_fails hwf hr
    exact ⟨_, rfl, hfailed.session, hfailed.dir, hfailed.cfg,
      .inr ⟨by rw [hfailed.err], hfailed.tap, hfailed.buf, hfailed.carryV, hfailed.carryB⟩⟩

/-! ## Register writes -/

theorem registerFrames_eq (c : Config) (source shift update : Tap) (d : Bool) (b : Bits) :
    registerFrames c source shift update d b =
      routeFrames c source shift d ++ dataFrames c b ++ routeFrames c shift update (lastBit b) := rfl

/-- `WRITE` between its entry and its exit, where the frames fit (R184, R185). -/
theorem writeReg_of_fits {shift update : Tap} {b : Bits} {s : State} (hne : shift ≠ update) (hwf : s.cfg.wf = true)
    (hfree : s.carryFree) (hwrite : writeErr s.cfg b = none)
    (h : s.fits (registerFrames s.cfg s.tap shift update (tdiSlot s) b).length) :
    writeReg shift update b s = .ok () (s.moved (registerFrames s.cfg s.tap shift update (tdiSlot s) b) update) := by
  rw [registerFrames_eq] at h ⊢
  rw [State.fits, List.length_append, List.length_append] at h
  have hentry : s.fits (routeFrames s.cfg s.tap shift (tdiSlot s)).length := by rw [State.fits]; omega
  have hdata : (s.routed shift).fits (dataFrames s.cfg b).length := by
    rw [State.fits, routed_buf, routed_cfg, List.length_append]
    omega
  have hwritten : writeSeq b (s.routed shift) =
      .ok () (setCarry (lastBit b) (bufAppend (dataFrames s.cfg b) (s.routed shift))) := by
    have := writeSeq_of_fits (s := s.routed shift) (b := b) (by rwa [routed_cfg]) (routed_carryFree hfree)
      (by rwa [routed_cfg])
    rwa [routed_cfg] at this
  have hexit : (setCarry (lastBit b) (bufAppend (dataFrames s.cfg b) (s.routed shift))).fits
      (routeFrames s.cfg shift update (lastBit b)).length := by
    rw [State.fits, setCarry_buf, bufAppend_buf, routed_buf, setCarry_cfg, bufAppend_cfg, routed_cfg,
      List.length_append, List.length_append]
    omega
  rw [writeReg, changeState_of_fits hwf hentry, bind_ok, hwritten, bind_ok,
    changeState_of_fits (by simpa using hwf) (by simpa [tdiSlot] using hexit), routed_of_ne (by simpa using hne)]
  simp [moved_setCarry, moved_routed, tdiSlot]

/-- Settles O38: `writeReg_of_fits` behind the checks. -/
theorem registerWritesComplete : Obligations.RegisterWritesComplete := by
  unfold Obligations.RegisterWritesComplete
  intro s b hwf hopen hfree hwrite
  have hpass : [sessionErr s, writeErr s.cfg b, carryErr s].findSome? id = none := by
    simp [hopen, hwrite, carryErr_of_free hfree]
  refine ⟨?_, ?_⟩
  all_goals
    rintro fr rfl hfits
    refine (checked_runs hpass).trans ?_
  · rw [writeIr, writeReg_of_fits (by decide) hwf hfree hwrite hfits]
    rfl
  · rw [writeDr, writeReg_of_fits (by decide) hwf hfree hwrite hfits]
    rfl

/-- `WRITE_IR`, `WRITE_DR` and the way to idle, where the frames fit (R191, R193). -/
theorem loadAndWrite_of_fits {pattern b : Bits} {s : State} (hwf : s.cfg.wf = true) (hfree : s.carryFree)
    (hpattern : writeErr s.cfg pattern = none) (hwrite : writeErr s.cfg b = none)
    (h : s.fits (registerFrames s.cfg s.tap .shir .upir (tdiSlot s) pattern ++
      registerFrames s.cfg .upir .shdr .updr s.cfg.tmsTdiDefault b ++
      routeFrames s.cfg .updr .rti s.cfg.tmsTdiDefault).length) :
    loadAndWrite pattern b s = .ok () (s.moved (registerFrames s.cfg s.tap .shir .upir (tdiSlot s) pattern ++
      registerFrames s.cfg .upir .shdr .updr s.cfg.tmsTdiDefault b ++
      routeFrames s.cfg .updr .rti s.cfg.tmsTdiDefault) .rti) := by
  rw [State.fits, List.length_append, List.length_append] at h
  have hload := writeReg_of_fits (shift := .shir) (update := .upir) (s := s) (by decide) hwf hfree hpattern
    (by rw [State.fits]; omega)
  generalize registerFrames s.cfg s.tap .shir .upir (tdiSlot s) pattern = load at h hload ⊢
  have hdata := writeReg_of_fits (shift := .shdr) (update := .updr) (s := s.moved load .upir) (by decide) hwf
    (moved_carryFree _ _ _) hwrite
    (by simp only [State.fits, moved_buf, moved_cfg, moved_tap, tdiSlot_moved, List.length_append]; omega)
  rw [moved_cfg, moved_tap, tdiSlot_moved, moved_moved] at hdata
  generalize registerFrames s.cfg .upir .shdr .updr s.cfg.tmsTdiDefault b = data at h hdata ⊢
  have hidle := changeState_of_fits (t := .rti) (s := s.moved (load ++ data) .updr) hwf
    (by simp only [State.fits, moved_buf, moved_cfg, moved_tap, tdiSlot_moved, List.length_append]; omega)
  rw [routed_of_ne (by simp), moved_cfg, moved_tap, tdiSlot_moved, moved_moved] at hidle
  rw [loadAndWrite, writeIr, hload, bind_ok, writeDr, hdata, bind_ok, hidle]

section
variable {α : Type} {v : α → Value} {args : List (Option Err)} {s : State} {k : State → Res α}

/-- A facility operation whose checks pass. -/
theorem facility_runs (hopen : s.session = .opened) (hfree : s.carryFree) (hargs : args.findSome? id = none) :
    deliver v (check (facilityErrs s args) s k) = deliver v (k s) := by
  refine checked_runs ?_
  rw [facilityErrs]
  cases s.cfg.facilityOrder <;> simp [hopen, carryErr_of_free hfree, hargs, List.findSome?_append]

/-- The first argument that fails is reported, unless a pending carry is reported first (log 26). -/
theorem facility_refuses {e : Err} (hopen : s.session = .opened)
    (hfree : s.carryFree ∨ s.cfg.facilityOrder = .argumentsFirst) (hargs : args.findSome? id = some e) :
    deliver v (check (facilityErrs s args) s k) = refuses e s := by
  refine checked_refuses ?_
  rw [facilityErrs]
  cases horder : s.cfg.facilityOrder with
  | carryFirst =>
    have hfree : s.carryFree := by simpa [horder] using hfree
    simp [hopen, carryErr_of_free hfree, hargs]
  | argumentsFirst => simp [hopen, hargs, List.findSome?_append]

/-- A pending carry is reported, unless an argument is reported first (log 26). -/
theorem facility_carryPending (hopen : s.session = .opened) (hpending : ¬ s.carryFree)
    (hargs : s.cfg.facilityOrder = .carryFirst ∨ args.findSome? id = none) :
    deliver v (check (facilityErrs s args) s k) = refuses (.pie .carryPending) s := by
  refine checked_refuses ?_
  rw [facilityErrs]
  cases horder : s.cfg.facilityOrder with
  | carryFirst => simp [hopen, carryErr_of_pending hpending]
  | argumentsFirst =>
    have hargs : args.findSome? id = none := by simpa [horder] using hargs
    simp [hopen, carryErr_of_pending hpending, hargs, List.findSome?_append]

end

/-- `preload` and `extest` differ in the provider's pattern (R191, R193). -/
theorem exec_preload_or_extest {i : Instr} {pattern b : Bits} {s : State}
    (h : (i = .preload b ∧ pattern = s.prov.preload) ∨ (i = .extest b ∧ pattern = s.prov.extest)) :
    exec i s = deliver noValue
      (check (facilityErrs s [writeErr s.cfg pattern, writeErr s.cfg b]) s (loadAndWrite pattern b)) := by
  obtain ⟨rfl, rfl⟩ | ⟨rfl, rfl⟩ := h <;> rfl

/-- Settles O40: `loadAndWrite_of_fits` behind the checks. -/
theorem facilityWritesComplete : Obligations.FacilityWritesComplete := by
  unfold Obligations.FacilityWritesComplete
  rintro s pattern b i hi hwf hopen hfree hpattern hwrite fr rfl hfits
  rw [exec_preload_or_extest hi, facility_runs hopen hfree (by simp [hpattern, hwrite]),
    loadAndWrite_of_fits hwf hfree hpattern hwrite hfits]
  rfl

/-! ## Reads -/

/-- What a read whose calls are answered leaves: `buf` queued, `inp` still to be answered, and all else of the block as
it was. -/
structure AfterCalls (buf : List Byte) (inp : List TxAnswer) (s t : State) : Prop where
  cfg : t.cfg = s.cfg
  session : t.session = s.session
  tap : t.tap = s.tap
  carryV : t.carryV = s.carryV
  carryB : t.carryB = s.carryB
  buf : t.buf = buf
  inp : t.inp = inp

theorem AfterCalls.refl (s : State) : AfterCalls s.buf s.inp s s := ⟨rfl, rfl, rfl, rfl, rfl, rfl, rfl⟩

theorem AfterCalls.trans {buf buf' : List Byte} {inp inp' : List TxAnswer} {s t u : State} (h : AfterCalls buf inp s t)
    (k : AfterCalls buf' inp' t u) : AfterCalls buf' inp' s u :=
  ⟨k.cfg.trans h.cfg, k.session.trans h.session, k.tap.trans h.tap, k.carryV.trans h.carryV, k.carryB.trans h.carryB,
    k.buf, k.inp⟩

theorem AfterCalls.tdiSlot {buf : List Byte} {inp : List TxAnswer} {s t : State} (h : AfterCalls buf inp s t) :
    tdiSlot t = tdiSlot s := by
  rw [Machine.tdiSlot, Machine.tdiSlot, h.carryV, h.carryB, h.cfg]

/-- A frame that fits, its flush and its answer. -/
theorem exchange_of_answers {F : Frame} {n : Nat} {s : State} {r : List Byte} {rest : List TxAnswer}
    (hfits : s.fits F.size) (hinp : s.inp = .served :: .bytes r :: rest) (hr : r.length = n) :
    ∃ t, exchange F n s = .ok r t ∧ AfterCalls [] rest s t := by
  have hlen : s.fits (encodeFrame s.cfg F).length := by rwa [encodeFrame_length]
  have hsize : F.size ≤ s.cfg.maxFrame := Nat.le_trans (Nat.le_add_left _ _) hfits
  rw [exchange_of_queued hsize (.inl hlen), flushBuf_eq (queued_frame_ne_nil F s), queued_of_fits hlen, if_neg,
    bind_ok, txRead_of_reads (r := r) (.inl _), if_pos hr]
  · exact ⟨_, rfl, rfl, rfl, rfl, rfl, rfl, rfl, by simp [State.sent, hinp]⟩
  · simp [State.sent, State.answer, hinp]
  · simp [State.callFails, State.answer, hinp]

theorem readBytes_of_answers {n : Nat} {s : State} {bs : List Byte} {rest : List TxAnswer} (hfits : s.fits 3)
    (hinp : s.inp = .served :: .bytes bs :: rest) (hbs : bs.length = n) :
    ∃ t, readBytes n s = .ok (unpackBytes bs) t ∧ AfterCalls [] rest s t := by
  obtain ⟨t, ht, hafter⟩ := exchange_of_answers (F := .rbytes n) hfits hinp hbs
  exact ⟨t, by rw [readBytes, ht, bind_ok], hafter⟩

theorem readBits_of_answers {n : Nat} {s : State} {r : Byte} {rest : List TxAnswer} (hfits : s.fits 2)
    (hinp : s.inp = .served :: .bytes [r] :: rest) :
    ∃ t, readBits n s = .ok (justified s.cfg n r) t ∧ AfterCalls [] rest s t := by
  obtain ⟨t, ht, hafter⟩ := exchange_of_answers (F := .rbits n) (n := 1) hfits hinp rfl
  exact ⟨t, by rw [readBits, ht, bind_ok, hafter.cfg]; rfl, hafter⟩

/-- The byte part of a read, or nothing. -/
theorem readIf_readBytes_of_answers {n : Nat} {s : State} {bs : List Byte} {rest : List TxAnswer} (hfits : s.fits 3)
    (hbs : 0 < n → bs.length = n) (hinp : s.inp = (if 0 < n then [.served, .bytes bs] else []) ++ rest) :
    ∃ t, readIf n readBytes s = .ok (if 0 < n then unpackBytes bs else []) t ∧
      AfterCalls (if 0 < n then [] else s.buf) rest s t := by
  rw [readIf]
  by_cases hn : 0 < n
  · simp only [if_pos hn] at hinp ⊢
    exact readBytes_of_answers hfits hinp (hbs hn)
  · simp only [if_neg hn] at hinp ⊢
    exact ⟨s, rfl, by simpa [hinp] using AfterCalls.refl s⟩

/-- The bit part of a read, or nothing. -/
theorem readIf_readBits_of_answers {n : Nat} {s : State} {r : Byte} {rest : List TxAnswer} (hfits : s.fits 2)
    (hinp : s.inp = (if 0 < n then [.served, .bytes [r]] else []) ++ rest) :
    ∃ t, readIf n readBits s = .ok (if 0 < n then justified s.cfg n r else []) t ∧
      AfterCalls (if 0 < n then [] else s.buf) rest s t := by
  rw [readIf]
  by_cases hn : 0 < n
  · simp only [if_pos hn] at hinp ⊢
    exact readBits_of_answers hfits hinp
  · simp only [if_neg hn] at hinp ⊢
    exact ⟨s, rfl, by simpa [hinp] using AfterCalls.refl s⟩

/-- `READ(n)` with its calls answered (R161). -/
theorem readSeq_of_answers {n : Nat} {bs : List Byte} {r : Byte} {rest : List TxAnswer} {s : State}
    (hread : readErr s.cfg n = none) (hfree : s.carryFree) (hfits : s.fits 3) (hbs : 0 < n / 8 → bs.length = n / 8)
    (hinp : s.inp = readAnswers n bs r ++ rest) :
    ∃ t, readSeq n s = .ok (readResult s.cfg n bs r) t ∧ AfterCalls (if n = 0 then s.buf else []) rest s t := by
  rw [readAnswers, List.append_assoc] at hinp
  obtain ⟨t, ht, hst⟩ := readIf_readBytes_of_answers hfits hbs hinp
  have htfits : t.fits 2 := by
    rw [State.fits, hst.buf, hst.cfg]
    split
    · simp only [State.fits, List.length_nil] at hfits ⊢
      omega
    · exact Nat.le_trans (by omega) hfits
  obtain ⟨u, hu, htu⟩ := readIf_readBits_of_answers (n := n % 8) htfits hst.inp
  refine ⟨u, ?_, ?_⟩
  · rw [readSeq, hread, carryErr_of_free hfree, check_none, check_none, check_nil, ht, bind_ok, hu, bind_ok, hst.cfg]
    rfl
  · have hbuf : (if 0 < n % 8 then [] else t.buf) = if n = 0 then s.buf else [] := by
      rw [hst.buf]
      by_cases hn : n = 0
      · simp [hn]
      · rw [if_neg hn]
        split
        · rfl
        · exact if_pos (by omega)
    exact hbuf ▸ hst.trans htu

theorem justified_length (c : Config) (n : Nat) (r : Byte) : (justified c n r).length = n := by
  rw [justified]
  cases c.readBitsJustify <;> simp

theorem readResult_length {c : Config} {n : Nat} {bs : List Byte} {r : Byte} (hbs : 0 < n / 8 → bs.length = n / 8) :
    (readResult c n bs r).length = n := by
  have hbytes : (if 0 < n / 8 then unpackBytes bs else []).length = 8 * (n / 8) := by
    split
    · next h => rw [unpackBytes_length, hbs h]
    · rw [List.length_nil]
      omega
  have hbits : (if 0 < n % 8 then justified c (n % 8) r else []).length = n % 8 := by
    split
    · exact justified_length c _ r
    · rw [List.length_nil]
      omega
  rw [readResult, List.length_append, hbytes, hbits]
  omega

/-- Settles O23: `readSeq_of_answers` behind the session check. -/
theorem readCompletes : Obligations.ReadCompletes := by
  unfold Obligations.ReadCompletes
  intro s n bs r rest hwf hopen hmax hfree hfits hbs hinp
  refine ⟨readResult_length hbs, ?_⟩
  obtain ⟨t, ht, hafter⟩ := readSeq_of_answers ((readErr_eq_none _ _).mpr hmax) hfree hfits hbs hinp
  have hexec : exec (.read n) s = deliver Value.bits (readSeq n s) := checked_runs (by simp [hopen])
  exact ⟨_, hexec.trans ((congrArg _ ht).trans (deliver_ok _ _ _)), rfl, hafter.tap, hafter.carryV,
    hafter.carryB, hafter.inp, hafter.buf⟩

/-! ### Register reads -/

/-- The frames of a route of at most `TMS_MAX_EVENTS` events. -/
theorem routeFrames_length_of_short {c : Config} {source target : Tap} {d : Bool} (hwf : c.wf = true)
    (h : (routeEvents source target).length ≤ 5) : (routeFrames c source target d).length ≤ 3 := by
  have hmax := Config.tmsMaxEvents_ge hwf
  rw [routeFrames]
  split
  · exact Nat.zero_le _
  · rw [List.drop_of_length_le (by omega), if_pos rfl, List.append_nil, encodeFrame_length]
    rfl

theorem routeFrames_length_le (c : Config) (source target : Tap) (d : Bool) :
    (routeFrames c source target d).length ≤ 6 := by
  rw [routeFrames]
  split
  · exact Nat.zero_le _
  · rw [List.length_append, encodeFrame_length, Frame.size]
    split
    · simp
    · rw [encodeFrame_length, Frame.size]

/-- `READ_DR(n)` with its calls answered: the exit frames take the carry where the read did not move the pointer (R186). -/
theorem readDr_of_answers {n : Nat} {bs : List Byte} {r : Byte} {rest : List TxAnswer} {s : State} (hwf : s.cfg.wf = true)
    (hread : readErr s.cfg n = none) (hfree : s.carryFree)
    (hfits : s.fits ((routeFrames s.cfg s.tap .shdr (tdiSlot s)).length + 3)) (hsix : 6 ≤ s.cfg.maxFrame)
    (hbs : 0 < n / 8 → bs.length = n / 8) (hinp : s.inp = readAnswers n bs r ++ rest) :
    ∃ t, readDr n s = .ok (readResult s.cfg n bs r) (t.routed .updr) ∧
      AfterCalls (if n = 0 then (s.routed .shdr).buf else []) rest (s.routed .shdr) t := by
  rw [State.fits] at hfits
  have hentry := changeState_of_fits (t := .shdr) hwf (by rw [State.fits]; omega)
  have hroom : (s.routed .shdr).fits 3 := by
    rw [State.fits, routed_buf, routed_cfg, List.length_append]
    omega
  obtain ⟨t, ht, hafter⟩ := readSeq_of_answers (s := s.routed .shdr) (by rwa [routed_cfg]) (routed_carryFree hfree) hroom
    hbs (by rwa [routed_inp])
  rw [routed_cfg] at ht
  have htwf : t.cfg.wf = true := by rwa [hafter.cfg, routed_cfg]
  have hexit : (routeFrames t.cfg t.tap .updr (tdiSlot t)).length ≤ 3 := by
    rw [hafter.tap, routed_tap]
    exact routeFrames_length_of_short htwf (by decide)
  have hbuf : t.buf.length + 3 ≤ t.cfg.maxFrame := by
    rw [hafter.buf, hafter.cfg, routed_cfg]
    split
    · simpa [State.fits] using hroom
    · simp only [List.length_nil]
      omega
  refine ⟨t, ?_, hafter⟩
  rw [readDr, hentry, bind_ok, ht, bind_ok, changeState_of_fits htwf (by rw [State.fits]; omega), bind_ok]

/-- The end of a register read: the exit frames, behind what the read has left queued. -/
structure ReadDone (n : Nat) (s : State) (rest : List TxAnswer) (d : Bool) (u : State) : Prop where
  cfg : u.cfg = s.cfg
  tap : u.tap = .updr
  carryV : u.carryV = false
  carryB : u.carryB = false
  inp : u.inp = rest
  exit : 0 < n → u.buf = routeFrames s.cfg .shdr .updr d
  size : u.buf.length ≤ s.buf.length + (routeFrames s.cfg s.tap .shdr (tdiSlot s)).length + 3

theorem readDone_of_afterCalls {n : Nat} {s t : State} {rest : List TxAnswer} (hwf : s.cfg.wf = true)
    (h : AfterCalls (if n = 0 then (s.routed .shdr).buf else []) rest (s.routed .shdr) t) :
    ReadDone n s rest (tdiSlot (s.routed .shdr)) (t.routed .updr) := by
  have hcfg : t.cfg = s.cfg := by rw [h.cfg, routed_cfg]
  have htap : t.tap = .shdr := by rw [h.tap, routed_tap]
  have hexit : (t.routed .updr).buf = t.buf ++ routeFrames s.cfg .shdr .updr (tdiSlot (s.routed .shdr)) := by
    rw [routed_buf, hcfg, htap, h.tdiSlot]
  have hmoved := routed_of_ne (t := .updr) (s := t) (by rw [htap]; decide)
  refine ⟨by rw [routed_cfg, hcfg], routed_tap _ _, by rw [hmoved]; rfl, by rw [hmoved]; rfl,
    by rw [routed_inp, h.inp], fun hn => ?_, ?_⟩
  · rw [hexit, h.buf, if_neg (by omega), List.nil_append]
  · have hshort := routeFrames_length_of_short (source := .shdr) (target := .updr) (d := tdiSlot (s.routed .shdr)) hwf
      (by decide)
    rw [hexit, h.buf, List.length_append]
    split
    · rw [routed_buf, List.length_append]
      omega
    · rw [List.length_nil]
      omega

section
variable {n : Nat} {bs : List Byte} {r : Byte} {rest : List TxAnswer} {s : State} (hwf : s.cfg.wf = true)
  (hread : readErr s.cfg n = none) (hfree : s.carryFree) (hbs : 0 < n / 8 → bs.length = n / 8)
  (hinp : s.inp = readAnswers n bs r ++ rest)
include hwf hread hfree hbs hinp

theorem readDr_completes (hfits : s.fits ((routeFrames s.cfg s.tap .shdr (tdiSlot s)).length + 3))
    (hsix : 6 ≤ s.cfg.maxFrame) :
    ∃ u, readDr n s = .ok (readResult s.cfg n bs r) u ∧ ReadDone n s rest (tdiSlot (s.routed .shdr)) u := by
  obtain ⟨t, ht, hafter⟩ := readDr_of_answers hwf hread hfree hfits hsix hbs hinp
  exact ⟨_, ht, readDone_of_afterCalls hwf hafter⟩

/-- With the frames to idle behind the exit frames (R190, R192, R194). -/
theorem readDrThenIdle_completes (hfits : s.fits ((routeFrames s.cfg s.tap .shdr (tdiSlot s)).length + 6)) :
    ∃ u, readDrThenIdle n s = .ok (readResult s.cfg n bs r) u ∧ u.tap = .rti ∧ u.carryV = false ∧ u.inp = rest ∧
      (0 < n → u.buf = routeFrames s.cfg .shdr .updr (tdiSlot (s.routed .shdr)) ++
        routeFrames s.cfg .updr .rti s.cfg.tmsTdiDefault) := by
  rw [State.fits] at hfits
  obtain ⟨t, ht, hdone⟩ := readDr_completes hwf hread hfree hbs hinp (by rw [State.fits]; omega) (by omega)
  have htwf : t.cfg.wf = true := hdone.cfg ▸ hwf
  have hdefault : tdiSlot t = s.cfg.tmsTdiDefault := by
    rw [tdiSlot, hdone.carryV, hdone.cfg]
    rfl
  have hidle : t.fits (routeFrames t.cfg t.tap .rti (tdiSlot t)).length := by
    have hsize := hdone.size
    have hshort := routeFrames_length_of_short (source := t.tap) (target := .rti) (d := tdiSlot t) htwf
      (by rw [hdone.tap]; decide)
    rw [State.fits, show t.cfg.maxFrame = s.cfg.maxFrame by rw [hdone.cfg]]
    omega
  have hmoved := routed_of_ne (t := .rti) (s := t) (by rw [hdone.tap]; decide)
  refine ⟨t.routed .rti, ?_, routed_tap _ _, by rw [hmoved]; rfl, by rw [routed_inp, hdone.inp], fun hn => ?_⟩
  · rw [readDrThenIdle, ht, bind_ok, changeState_of_fits htwf hidle, bind_ok]
  · rw [routed_buf, hdone.exit hn, hdone.cfg, hdone.tap, hdefault]

end

theorem registerFrames_length_le {c : Config} {source : Tap} {d : Bool} {b : Bits} (hwf : c.wf = true) :
    (registerFrames c source .shir .upir d b).length ≤ (dataFrames c b).length + 9 := by
  have hentry := routeFrames_length_le c source .shir d
  have hexit := routeFrames_length_of_short (source := .shir) (target := .upir) (d := lastBit b) hwf (by decide)
  rw [registerFrames_eq, List.length_append, List.length_append]
  omega

/-- Settles O39: the reads of `readDr_completes` and `readDrThenIdle_completes` behind their checks; before `sample`'s,
the write of its instruction. -/
theorem registerReadsComplete : Obligations.RegisterReadsComplete := by
  unfold Obligations.RegisterReadsComplete
  rintro s n bs r rest hwf hopen hfree hmax hfits hbs hinp d rfl
  have hread := (readErr_eq_none _ _).mpr hmax
  have hroute := routeFrames_length_le s.cfg s.tap .shdr (tdiSlot s)
  rw [State.fits] at hfits
  rw [← tdiSlot_routed]
  have hroom : s.fits ((routeFrames s.cfg s.tap .shdr (tdiSlot s)).length + 6) := by rw [State.fits]; omega
  obtain ⟨t, ht, htap, hcarry, hrest, hbuf⟩ := readDrThenIdle_completes hwf hread hfree hbs hinp hroom
  refine ⟨?_, ?_, fun hlen => ?_, fun hlen hsample hroom => ?_⟩
  · obtain ⟨u, hu, hdone⟩ := readDr_completes hwf hread hfree hbs hinp (by rw [State.fits]; omega) (by omega)
    have hexec : exec (.readDr n) s = deliver Value.bits (readDr n s) :=
      checked_runs (by simp [hopen, hmax, carryErr_of_free hfree])
    exact ⟨_, hexec.trans ((congrArg _ hu).trans (deliver_ok _ _ _)), rfl, hdone.tap, hdone.carryV, hdone.carryB,
      hdone.inp, hdone.exit⟩
  · rintro rfl
    have hexec : exec .idcode s = deliver (fun r => Value.int (natOfBits r)) (readDrThenIdle 32 s) :=
      checked_runs (by simp [hopen, carryErr_of_free hfree])
    exact ⟨_, hexec.trans ((congrArg _ ht).trans (deliver_ok _ _ _)), rfl, htap, hcarry, hrest, hbuf (by decide)⟩
  · have hexec : exec .readback s = deliver Value.bits (readDrThenIdle s.prov.boundaryLength.toNat s) :=
      facility_runs hopen hfree (by simp [hlen, hmax])
    rw [hlen, Int.toNat_natCast] at hexec
    exact ⟨_, hexec.trans ((congrArg _ ht).trans (deliver_ok _ _ _)), rfl, htap, hcarry, hrest, hbuf⟩
  · rw [State.fits] at hroom
    have hregister := registerFrames_length_le (source := s.tap) (d := tdiSlot s) (b := s.prov.sample) hwf
    have hload : writeIr s.prov.sample s = _ :=
      writeReg_of_fits (by decide) hwf hfree hsample (by rw [State.fits]; omega)
    generalize registerFrames s.cfg s.tap .shir .upir (tdiSlot s) s.prov.sample = load at hload hregister
    have hshort := routeFrames_length_of_short (source := .upir) (target := .shdr) (d := s.cfg.tmsTdiDefault) hwf
      (by decide)
    have hleft : (s.moved load .upir).fits ((routeFrames s.cfg .upir .shdr s.cfg.tmsTdiDefault).length + 6) := by
      rw [State.fits, moved_buf, moved_cfg, List.length_append]
      omega
    obtain ⟨u, hu, htap, hcarry, hrest, hbuf⟩ := readDrThenIdle_completes (s := s.moved load .upir) hwf hread
      (moved_carryFree _ _ _) hbs hinp hleft
    rw [tdiSlot_routed] at hbuf
    have hexec : exec .sample s = deliver Value.bits ((writeIr s.prov.sample s).bind fun _ t =>
        readDrThenIdle t.prov.boundaryLength.toNat t) :=
      facility_runs hopen hfree (by simp [hlen, hmax, hsample])
    rw [hload, bind_ok, moved_prov, hlen, Int.toNat_natCast] at hexec
    exact ⟨_, hexec.trans ((congrArg _ hu).trans (deliver_ok _ _ _)), rfl, htap, hcarry, hrest, by simpa using hbuf⟩

/-! ## The facility operations and their parts (42_engine.md R190 to R194) -/

theorem writeReg_replyBlind (shift update : Tap) (b : Bits) : ReplyBlind (writeReg shift update b) :=
  (changeState_replyBlind shift).bind fun _ => (writeSeq_replyBlind b).bind fun _ => changeState_replyBlind update

theorem readDr_replyBlind (n : Nat) : ReplyBlind (readDr n) :=
  (changeState_replyBlind .shdr).bind fun _ => (readSeq_replyBlind n).bind fun _ =>
    (changeState_replyBlind .updr).bind fun _ _ _ => rfl

section
variable {s : State} (hopen : s.session = .opened)
include hopen

theorem exec_goIdle_of_opened (x : Option Reply) :
    exec .goIdle { s with reply := x } = deliver noValue (changeState .rti s) :=
  deliver_check_session (changeState_replyBlind .rti) hopen x

theorem exec_writeIr_of_opened {b : Bits} (hfree : s.carryFree) (hwrite : writeErr s.cfg b = none) (x : Option Reply) :
    exec (.writeIr b) { s with reply := x } = deliver noValue (writeIr b s) := by
  have hpass : [sessionErr s, writeErr s.cfg b, carryErr s].findSome? id = none := by
    simp [hopen, hwrite, carryErr_of_free hfree]
  exact (checked_runs (s := { s with reply := x }) hpass).trans ((writeReg_replyBlind _ _ b).deliver noValue x s)

theorem exec_writeDr_of_opened {b : Bits} (hfree : s.carryFree) (hwrite : writeErr s.cfg b = none) (x : Option Reply) :
    exec (.writeDr b) { s with reply := x } = deliver noValue (writeDr b s) := by
  have hpass : [sessionErr s, writeErr s.cfg b, carryErr s].findSome? id = none := by
    simp [hopen, hwrite, carryErr_of_free hfree]
  exact (checked_runs (s := { s with reply := x }) hpass).trans ((writeReg_replyBlind _ _ b).deliver noValue x s)

theorem exec_readDr_of_opened {n : Nat} (hfree : s.carryFree) (hread : readErr s.cfg n = none) (x : Option Reply) :
    exec (.readDr n) { s with reply := x } = deliver Value.bits (readDr n s) := by
  have hpass : [sessionErr s, readErr s.cfg n, carryErr s].findSome? id = none := by
    simp [hopen, (readErr_eq_none _ _).mp hread, carryErr_of_free hfree]
  exact (checked_runs (s := { s with reply := x }) hpass).trans ((readDr_replyBlind n).deliver Value.bits x s)

/-- A register read and the way to idle are the operations `read_dr` and `go_idle`, with a result made of the bits. -/
theorem deliver_readDrThenIdle {n : Nat} (hwf : s.cfg.wf = true) (hfree : s.carryFree) (hread : readErr s.cfg n = none)
    (x : Option Reply) (v : Bits → Value) :
    deliver v (readDrThenIdle n s) =
      andThen (exec (.readDr n) { s with reply := x }) fun s₁ =>
        andThen (exec .goIdle s₁) fun s₂ => returns (v (replyBits s₁)) s₂ := by
  rw [exec_readDr_of_opened hopen hfree hread]
  refine deliver_bind fun r t ht => ?_
  have hkept := (readDr_runs hwf hread (carryErr_of_free hfree)).ok r t ht
  rw [exec_goIdle_of_opened (hkept.session.trans hopen)]
  exact deliver_bind fun _ _ _ => rfl

/-- A register write in an operation leaves the session open and no carry that refuses the next part. -/
theorem writeReg_leaves {shift update : Tap} {b : Bits} {t : State} (hne : shift ≠ update) (hwf : s.cfg.wf = true)
    (hfree : s.carryFree) (hwrite : writeErr s.cfg b = none) (h : writeReg shift update b s = .ok () t) :
    Kept s t ∧ t.session = .opened ∧ t.carryFree := by
  have hkept := (writeReg_runs hwf shift update hwrite (carryErr_of_free hfree)).ok () t h
  exact ⟨hkept, hkept.session.trans hopen, (carryErr_eq_none t).mp (writeReg_carryErr hne h)⟩

theorem deliver_loadAndWrite {pattern b : Bits} (hwf : s.cfg.wf = true) (hfree : s.carryFree)
    (hpattern : writeErr s.cfg pattern = none) (hwrite : writeErr s.cfg b = none) :
    deliver noValue (loadAndWrite pattern b s) =
      andThen (exec (.writeIr pattern) s) fun s₁ =>
        andThen (exec (.writeDr b) s₁) fun s₂ => exec .goIdle s₂ := by
  refine (deliver_bind fun _ t ht => ?_).trans
    (congrArg (andThen · _) (exec_writeIr_of_opened hopen hfree hpattern s.reply).symm)
  obtain ⟨hkept, hopen₁, hfree₁⟩ := writeReg_leaves hopen (by decide) hwf hfree hpattern ht
  rw [exec_writeDr_of_opened hopen₁ hfree₁ (hkept.cfg ▸ hwrite)]
  refine deliver_bind fun _ u hu => ?_
  obtain ⟨-, hopen₂, -⟩ := writeReg_leaves hopen₁ (by decide) (hkept.cfg ▸ hwf) hfree₁ (hkept.cfg ▸ hwrite) hu
  exact (exec_goIdle_of_opened hopen₂ _).symm

end

/-- Settles O35: the checks by `facility_refuses` and `facility_carryPending`; then each part runs as its operation. -/
theorem facilityWritesAreTheirParts : Obligations.FacilityWritesAreTheirParts := by
  unfold Obligations.FacilityWritesAreTheirParts
  refine ⟨fun s hwf => ⟨fun hclosed => checked_closed hclosed, fun hopen hpending => ?_, fun hopen hfree => ?_⟩,
    fun s b pattern i hwf hi => ?_⟩
  · exact checked_refuses (by simp [hopen, carryErr_of_pending hpending])
  · have hread : readErr s.cfg 32 = none := (readErr_eq_none _ _).mpr (Config.readBytesMax_ge hwf)
    exact (checked_runs (by simp [hopen, carryErr_of_free hfree])).trans
      (deliver_readDrThenIdle hopen hwf hfree hread s.reply fun r => .int (natOfBits r))
  · rw [exec_preload_or_extest hi]
    refine ⟨fun hclosed => facility_closed hclosed, fun hopen hpending hargs => ?_, fun hopen hfree =>
      ⟨fun e he => ?_, fun e hpattern he => ?_⟩, fun hopen hfree hpattern hwrite => ?_⟩
    · exact facility_carryPending hopen hpending (hargs.imp_right fun ⟨hp, hw⟩ => by simp [hp, hw])
    · exact facility_refuses hopen hfree (by simp [he])
    · exact facility_refuses hopen hfree (by simp [hpattern, he])
    · rw [facility_runs hopen hfree (by simp [hpattern, hwrite]), deliver_loadAndWrite hopen hwf hfree hpattern hwrite]

/-- Settles O36: as `facilityWritesAreTheirParts`, with the length's two checks about the pattern's. -/
theorem facilityReadsAreTheirParts : Obligations.FacilityReadsAreTheirParts := by
  unfold Obligations.FacilityReadsAreTheirParts
  refine ⟨fun s i hi => ?_, fun s len hwf hopen hlen => ?_⟩
  · refine ⟨fun hclosed => ?_, fun hopen hpending horder => ?_, fun hopen hfree hneg => ?_⟩
    · obtain rfl | rfl := hi <;> exact facility_closed hclosed
    · obtain rfl | rfl := hi <;> exact facility_carryPending hopen hpending (.inl horder)
    · have hsign : lengthErr s.prov.boundaryLength = some (.pie (.providerValue s.prov.boundaryLength)) := if_pos hneg
      obtain rfl | rfl := hi <;> exact facility_refuses hopen hfree (by simp [hsign])
  · have hsign : lengthErr s.prov.boundaryLength = none := (lengthErr_eq_none _).mpr (by omega)
    have hnat : s.prov.boundaryLength.toNat = len := by omega
    refine ⟨fun hfree => ⟨fun e he => ?_, fun hlarge => ⟨fun hsample => ?_, ?_⟩⟩, fun hmax hpending =>
      ⟨fun hsample => ?_, ?_⟩, fun hmax hfree => ⟨fun hsample => ?_, ?_⟩⟩
    · exact facility_refuses hopen hfree (by simp [hsign, he])
    · exact facility_refuses hopen hfree (by simp [hsign, hsample, hnat, readErr_of_large hlarge])
    · exact facility_refuses hopen hfree (by simp [hsign, hnat, readErr_of_large hlarge])
    · exact facility_carryPending hopen hpending (.inr (by simp [hsign, hsample, hnat, hmax]))
    · exact facility_carryPending hopen hpending (.inr (by simp [hsign, hnat, hmax]))
    · refine (facility_runs hopen hfree (by simp [hsign, hsample, hnat, hmax])).trans ?_
      refine (deliver_bind fun _ t ht => ?_).trans
        (congrArg (andThen · _) (exec_writeIr_of_opened hopen hfree hsample s.reply).symm)
      obtain ⟨hkept, hopen₁, hfree₁⟩ := writeReg_leaves hopen (by decide) hwf hfree hsample ht
      have hnat₁ : t.prov.boundaryLength.toNat = len := by rw [hkept.prov, hnat]
      rw [hnat₁]
      have hread : readErr t.cfg len = none := (readErr_eq_none _ _).mpr (hkept.cfg ▸ hmax)
      exact deliver_readDrThenIdle hopen₁ (hkept.cfg ▸ hwf) hfree₁ hread _ Value.bits
    · have hread : readErr s.cfg len = none := (readErr_eq_none _ _).mpr hmax
      refine (facility_runs hopen hfree (by simp [hsign, hnat, hmax])).trans ?_
      rw [hnat]
      exact deliver_readDrThenIdle hopen hwf hfree hread s.reply Value.bits

end Sys2Proof.Machine

/-! # Frames on the link (spec/43_link_model.md R222 to R226, R232 to R234) -/

namespace Sys2Proof.Machine

/-! ## What clocks do not look at -/

/-- The line, the responses, the wire and the mark of a failed call replaced. -/
def Link.reline (tms : Option Bool) (out : List Byte) (wire : List (List Byte)) (torn : Bool) (l : Link) : Link :=
  { l with tms := tms, out := out, wire := wire, torn := torn }

section
variable (c : Config) (tms : Option Bool) (out : List Byte) (wire : List (List Byte)) (torn : Bool) (l : Link)

theorem shift_reline (s : Tap) (d : Bool) :
    (l.reline tms out wire torn).shift s d = ((l.shift s d).1, (l.shift s d).2.reline tms out wire torn) := by
  simp only [Link.shift, Link.reline]
  split
  · split <;> rfl
  · split
    · split <;> rfl
    · rfl

theorem enter_reline (s : Tap) : (l.reline tms out wire torn).enter c s = (l.enter c s).reline tms out wire torn := by
  simp only [Link.enter, Link.reline]
  repeat' split
  all_goals rfl

/-- A clock depends on the set of states and the registers alone (R224). -/
theorem clock_reline (m d : Bool) :
    (l.reline tms out wire torn).clock c m d = ((l.clock c m d).1, (l.clock c m d).2.reline tms out wire torn) := by
  by_cases hknown : ∃ s, l.poss = [s]
  · obtain ⟨s, hs⟩ := hknown
    rw [clock_known hs, clock_known (l := l.reline tms out wire torn) hs, shift_reline, enter_reline]
    rfl
  · have hunknown : ∀ k : Link, k.poss = l.poss →
        k.clock c m d = ({ k with poss := imageOf k.poss m }.anyRegs c).draw := by
      intro k hk
      unfold Link.clock
      split
      · next s hs => exact absurd ⟨s, hk.symm.trans hs⟩ hknown
      · rfl
    rw [hunknown l rfl, hunknown (l.reline tms out wire torn) rfl]
    rfl

theorem tmsClocks_reline (d : Bool) (ev : Bits) :
    (l.reline tms out wire torn).tmsClocks c d ev = (l.tmsClocks c d ev).reline tms out wire torn := by
  induction ev generalizing l with
  | nil => rfl
  | cons m ms ih => rw [Link.tmsClocks, Link.tmsClocks, clock_reline, ih]

/-- A data clock depends on the line too. -/
theorem dataClock_reline (d : Bool) : (l.reline l.tms out wire torn).dataClock c d =
    ((l.dataClock c d).1, (l.dataClock c d).2.reline l.tms out wire torn) := by
  unfold Link.dataClock
  have htms : (l.reline l.tms out wire torn).tms = l.tms := rfl
  rw [htms]
  cases l.tms with
  | some m => exact clock_reline c (some m) out wire torn l m d
  | none => rfl

theorem dataClocks_reline (b : Bits) : (l.reline l.tms out wire torn).dataClocks c b =
    ((l.dataClocks c b).1, (l.dataClocks c b).2.reline l.tms out wire torn) := by
  induction b generalizing l with
  | nil => rfl
  | cons d ds ih =>
    have htms : (l.dataClock c d).2.tms = l.tms := (dataClock_spec c d l).2.2.1
    rw [dataClocks_cons, dataClocks_cons, dataClock_reline, ← htms, ih]

end

/-! ## The line unknown -/

/-- Data clocks with the line unknown leave the remote TAP anywhere (R224). -/
theorem dataClocks_unknown {c : Config} {b : Bits} {l : Link} (htms : l.tms = none) (hne : b ≠ []) :
    (l.dataClocks c b).2.poss = allTaps := by
  induction b generalizing l with
  | nil => exact absurd rfl hne
  | cons d ds ih =>
    obtain ⟨hposs, -, hkept, -⟩ := dataClock_spec c d l
    rw [dataClocks_cons]
    by_cases hds : ds = []
    · subst hds
      exact hposs htms
    · exact ih (hkept.trans htms) hds

/-! ## The two shift registers -/

/-- The data register and the instruction register of the target (R231). -/
inductive TargetReg where
  | dr
  | ir

/-- The state that shifts it. -/
def TargetReg.shiftTap : TargetReg → Tap
  | .dr => .shdr
  | .ir => .shir

/-- The state whose entry latches it. -/
def TargetReg.updateTap : TargetReg → Tap
  | .dr => .updr
  | .ir => .upir

def TargetReg.bits : TargetReg → Link → Bits
  | .dr, l => l.drSh
  | .ir, l => l.irSh

def TargetReg.latch : TargetReg → Link → Bits
  | .dr, l => l.drUpd
  | .ir, l => l.irUpd

def TargetReg.put : TargetReg → Bits → Link → Link
  | .dr, r, l => { l with drSh := r }
  | .ir, r, l => { l with irSh := r }

theorem TargetReg.bits_put (R : TargetReg) (r : Bits) (l : Link) : R.bits (R.put r l) = r := by cases R <;> rfl

theorem TargetReg.put_put (R : TargetReg) (r r' : Bits) (l : Link) : R.put r (R.put r' l) = R.put r l := by
  cases R <;> rfl

theorem TargetReg.put_bits (R : TargetReg) (l : Link) : R.put (R.bits l) l = l := by cases R <;> rfl

theorem TargetReg.put_fields (R : TargetReg) (r : Bits) (l : Link) :
    (R.put r l).poss = l.poss ∧ (R.put r l).tms = l.tms ∧ (R.put r l).out = l.out := by
  cases R <;> exact ⟨rfl, rfl, rfl⟩

/-- In its shift state a register shows bit 0 and takes the TDI bit in at the top (R224). -/
theorem shift_of_shiftTap {R : TargetReg} {d b : Bool} {r : Bits} {l : Link} (h : R.bits l = b :: r) :
    l.shift R.shiftTap d = (b, R.put (r ++ [d]) l) := by
  cases R with
  | dr => exact shift_shdr h
  | ir => exact shift_shir h

/-- A clock at TMS = 0 in a shift state shifts the register and does nothing else (R224). -/
theorem clock_of_shiftTap {R : TargetReg} {c : Config} {d b : Bool} {r : Bits} {l : Link} (hposs : l.poss = [R.shiftTap])
    (h : R.bits l = b :: r) : l.clock c false d = (b, R.put (r ++ [d]) l) := by
  have hstay : nxt R.shiftTap false = R.shiftTap := by cases R <;> rfl
  have henter : (R.put (r ++ [d]) l).enter c R.shiftTap = R.put (r ++ [d]) l := by cases R <;> rfl
  rw [clock_known hposs, shift_of_shiftTap h, hstay, henter, ← hposs]
  cases R <;> rfl

theorem shiftedIn_cons (b d : Bool) (r ds : Bits) : shiftedIn (b :: r) (d :: ds) = shiftedIn (r ++ [d]) ds := by
  simp [shiftedIn]

theorem shiftedOut_cons (b d : Bool) (r ds : Bits) :
    shiftedOut (b :: r) (d :: ds) = b :: shiftedOut (r ++ [d]) ds := by
  simp [shiftedOut]

theorem shiftedOut_length (r d : Bits) : (shiftedOut r d).length = d.length := by
  simp [shiftedOut]

/-- Data clocks in a shift state with the line at 0 shift the register by their bits and do nothing else (R224, R233). -/
theorem dataClocks_of_shiftTap {R : TargetReg} {c : Config} {l : Link} (htms : l.tms = some false)
    (hposs : l.poss = [R.shiftTap]) (hne : R.bits l ≠ []) (b : Bits) :
    l.dataClocks c b = (shiftedOut (R.bits l) b, R.put (shiftedIn (R.bits l) b) l) := by
  induction b generalizing l with
  | nil => simp [shiftedOut, shiftedIn, R.put_bits]
  | cons d ds ih =>
    obtain ⟨x, r, hr⟩ := List.exists_cons_of_ne_nil hne
    have hclock : l.dataClock c d = (x, R.put (r ++ [d]) l) :=
      ((dataClock_spec c d l).2.1 false htms).trans (clock_of_shiftTap hposs hr)
    obtain ⟨hp, ht, -⟩ := R.put_fields (r ++ [d]) l
    have hne₁ : R.bits (R.put (r ++ [d]) l) ≠ [] := by simp [R.bits_put]
    rw [dataClocks_cons, hclock, ih (ht.trans htms) (hp.trans hposs) hne₁, R.bits_put, R.put_put, hr, shiftedIn_cons,
      shiftedOut_cons]

/-! ## Frames by their data clocks -/

/-- What a frame that answers bytes does after its data clocks is respond. -/
theorem runRbits_eq (c : Config) (n : Nat) (l : Link) :
    l.runRbits c n = ((l.dataClocks c (List.replicate n c.readTdi)).2.bitsResponse c
        (l.dataClocks c (List.replicate n c.readTdi)).1).2.respond
      [((l.dataClocks c (List.replicate n c.readTdi)).2.bitsResponse c
        (l.dataClocks c (List.replicate n c.readTdi)).1).1] := rfl

/-- A response byte may draw free values and changes nothing else (R225; log 6). -/
theorem bitsResponse_free (c : Config) (v : Bits) (l : Link) : ∃ k, (l.bitsResponse c v).2 = { l with free := k } := by
  unfold Link.bitsResponse
  split
  · exact ⟨l.free, rfl⟩
  · exact ⟨_, rfl⟩

/-- `RBITS`: its data clocks, then one byte that holds the TDO bits (R225). -/
theorem runRbits_spec (c : Config) (n : Nat) (l : Link) : ∃ r k,
    l.runRbits c n =
      { (l.dataClocks c (List.replicate n c.readTdi)).2 with
        free := k, out := (l.dataClocks c (List.replicate n c.readTdi)).2.out ++ [r] } ∧
    (n ≤ 8 → justified c n r = (l.dataClocks c (List.replicate n c.readTdi)).1) := by
  have hlen : (l.dataClocks c (List.replicate n c.readTdi)).1.length = n := by simp [(dataClocks_spec c _ l).1]
  obtain ⟨k, hk⟩ := bitsResponse_free c (l.dataClocks c (List.replicate n c.readTdi)).1
    (l.dataClocks c (List.replicate n c.readTdi)).2
  refine ⟨_, k, by rw [runRbits_eq, hk]; rfl, fun hn => ?_⟩
  have h := justified_bitsResponse c (l.dataClocks c (List.replicate n c.readTdi)).1
    (l.dataClocks c (List.replicate n c.readTdi)).2 (hlen.trans_le hn)
  rwa [hlen] at h

/-- The three parts of `DataFramesHoldTms` that the data clocks settle, for a frame that does `answer` bytes more. -/
theorem dataClocks_holdTms (c : Config) (b : Bits) (l : Link) :
    (∀ m, l.tms = some m →
      ∀ t, t ∈ (l.dataClocks c b).2.poss ↔ ∃ u ∈ l.poss, applyEvents u (List.replicate b.length m) = t) ∧
    (l.tms = none → 0 < b.length → (l.dataClocks c b).2.poss = allTaps) :=
  ⟨fun m hm => dataClocks_poss c b l m hm,
    fun hnone hpos => dataClocks_unknown hnone (List.length_pos_iff.mp hpos)⟩

/-- A frame as its data clocks: `bs` written or read, `answers` bytes answered, nothing else. -/
structure HoldsLine (c : Config) (f : Frame) (l : Link) (bs : Bits) (answers : Nat) : Prop where
  poss : (l.runFrame c f).poss = (l.dataClocks c bs).2.poss
  tms : (l.runFrame c f).tms = l.tms
  wire : (l.runFrame c f).wire = l.wire
  out : ∃ r, (l.runFrame c f).out = l.out ++ r ∧ r.length = answers

theorem wbits_holdsLine (c : Config) (l : Link) (b : Bits) : HoldsLine c (.wbits b) l b 0 := by
  obtain ⟨-, ht, ho, hw⟩ := dataClocks_spec c b l
  exact ⟨rfl, ht, hw, [], ho.trans (List.append_nil _).symm, rfl⟩

theorem wbytes_holdsLine (c : Config) (l : Link) (b : Bits) : HoldsLine c (.wbytes b) l b 0 := by
  obtain ⟨-, ht, ho, hw⟩ := dataClocks_spec c b l
  exact ⟨rfl, ht, hw, [], ho.trans (List.append_nil _).symm, rfl⟩

theorem rwbytes_holdsLine (c : Config) (l : Link) (b : Bits) : HoldsLine c (.rwbytes b) l b (b.length / 8) := by
  obtain ⟨hlen, ht, ho, hw⟩ := dataClocks_spec c b l
  exact ⟨rfl, ht, hw, packBytes (l.dataClocks c b).1, congrArg (· ++ _) ho, by rw [packBytes_length, hlen]⟩

theorem rbytes_holdsLine (c : Config) (l : Link) (n : Nat) :
    HoldsLine c (.rbytes n) l (List.replicate (8 * n) c.readTdi) n := by
  obtain ⟨hlen, ht, ho, hw⟩ := dataClocks_spec c (List.replicate (8 * n) c.readTdi) l
  refine ⟨rfl, ht, hw, packBytes (l.dataClocks c _).1, congrArg (· ++ _) ho, ?_⟩
  rw [packBytes_length, hlen, List.length_replicate]
  omega

theorem rbits_holdsLine (c : Config) (l : Link) (n : Nat) :
    HoldsLine c (.rbits n) l (List.replicate n c.readTdi) 1 := by
  obtain ⟨-, ht, ho, hw⟩ := dataClocks_spec c (List.replicate n c.readTdi) l
  obtain ⟨r, k, hrun, -⟩ := runRbits_spec c n l
  refine ⟨?_, ?_, ?_, [r], ?_, rfl⟩ <;> rw [Link.runFrame, hrun]
  · exact ht
  · exact hw
  · exact congrArg (· ++ _) ho

/-- A frame with data clocks on the link's turn (`DataFramesHoldTms`). -/
theorem exec_of_holdsLine {s : State} {i : Instr} {f : Frame} {bs : Bits} {clocks answers : Nat} (hturn : s.turn = .link)
    (h : HoldsLine s.cfg f s.link bs answers) (hi : i = f.toInstr) (hclocks : bs.length = clocks) :
    ∃ l, exec i s = .next { s with link := l } ∧ l.tms = s.link.tms ∧ l.wire = s.link.wire ∧
      l.torn = s.link.torn ∧
      (∀ m, s.link.tms = some m →
        ∀ t, t ∈ l.poss ↔ ∃ u ∈ s.link.poss, applyEvents u (List.replicate clocks m) = t) ∧
      (s.link.tms = none → 0 < clocks → l.poss = allTaps) ∧
      s.link.out <+: l.out ∧ l.out.length = s.link.out.length + answers := by
  subst hi hclocks
  obtain ⟨hposs, htms, hwire, r, hout, hlen⟩ := h
  obtain ⟨hmoved, hany⟩ := dataClocks_holdTms s.cfg bs s.link
  refine ⟨s.link.runFrame s.cfg f, exec_frame_of_link hturn, htms, hwire, runFrame_torn _ _ _, ?_, ?_, ?_, ?_⟩
  · simpa only [hposs] using hmoved
  · simpa only [hposs] using hany
  · exact hout ▸ List.prefix_append _ _
  · rw [hout, List.length_append, hlen]

/-- Settles O54: each of the five frames as its data clocks. -/
theorem dataFramesHoldTms : Obligations.DataFramesHoldTms := by
  unfold Obligations.DataFramesHoldTms
  rintro s i clocks answers hi hturn
  obtain ⟨b, rfl | rfl, rfl, rfl⟩ | ⟨b, rfl, -, rfl, rfl⟩ | ⟨rfl, rfl⟩ | ⟨rfl, rfl⟩ := hi
  · exact exec_of_holdsLine hturn (wbits_holdsLine _ _ b) rfl rfl
  · exact exec_of_holdsLine hturn (wbytes_holdsLine _ _ b) rfl rfl
  · exact exec_of_holdsLine hturn (rwbytes_holdsLine _ _ b) rfl rfl
  · exact exec_of_holdsLine hturn (rbits_holdsLine _ _ clocks) rfl List.length_replicate
  · exact exec_of_holdsLine hturn (rbytes_holdsLine _ _ answers) rfl List.length_replicate

/-- Settles O55: the data clocks of the two frames, in either shift state. -/
theorem shiftClocksMoveRegister : Obligations.ShiftClocksMoveRegister := by
  unfold Obligations.ShiftClocksMoveRegister
  intro s b i hi hturn htms
  have hexec : exec i s = .next { s with link := (s.link.dataClocks s.cfg b).2 } := by
    obtain rfl | rfl := hi
    · exact exec_frame_of_link (f := .wbits b) hturn
    · exact exec_frame_of_link (f := .wbytes b) hturn
  refine ⟨fun hposs hne => ?_, fun hposs hne => ?_⟩
  · rw [hexec, dataClocks_of_shiftTap (R := .dr) htms hposs hne]
    rfl
  · rw [hexec, dataClocks_of_shiftTap (R := .ir) htms hposs hne]
    rfl

/-! ## Read frames -/

theorem runRbits_of_shiftTap {R : TargetReg} {c : Config} {l : Link} (htms : l.tms = some false)
    (hposs : l.poss = [R.shiftTap]) (hne : R.bits l ≠ []) {n : Nat} (hn : n ≤ 8) : ∃ r k,
    l.runFrame c (.rbits n) =
      { R.put (shiftedIn (R.bits l) (List.replicate n c.readTdi)) l with free := k, out := l.out ++ [r] } ∧
    justified c n r = shiftedOut (R.bits l) (List.replicate n c.readTdi) := by
  obtain ⟨r, k, hrun, hvalue⟩ := runRbits_spec c n l
  rw [dataClocks_of_shiftTap htms hposs hne] at hrun hvalue
  exact ⟨r, k, by rw [Link.runFrame, hrun, (R.put_fields _ l).2.2], hvalue hn⟩

/-- `RBYTES` and `RWBYTES` answer the bits their data clocks shift out, eight to a byte. -/
theorem respond_of_shiftTap {R : TargetReg} {c : Config} {l : Link} (htms : l.tms = some false)
    (hposs : l.poss = [R.shiftTap]) (hne : R.bits l ≠ []) {d : Bits} (hd : d.length % 8 = 0) : ∃ r,
    (l.dataClocks c d).2.respond (packBytes (l.dataClocks c d).1) =
      { R.put (shiftedIn (R.bits l) d) l with out := l.out ++ r } ∧
    r.length = d.length / 8 ∧ unpackBytes r = shiftedOut (R.bits l) d := by
  rw [dataClocks_of_shiftTap htms hposs hne]
  refine ⟨_, by rw [Link.respond, (R.put_fields _ l).2.2], ?_, ?_⟩
  · rw [packBytes_length, shiftedOut_length]
  · exact unpackBytes_packBytes _ (by rw [shiftedOut_length, hd])

/-- Settles O56: by the data clocks of the three frames. -/
theorem readFramesAnswerRegister : Obligations.ReadFramesAnswerRegister := by
  unfold Obligations.ReadFramesAnswerRegister
  refine ⟨fun s n hturn => ⟨?_, ?_⟩, ?_, fun s i d hturn htms hi => ?_⟩
  · obtain ⟨-, htms, hwire, r, hout, hlen⟩ := rbits_holdsLine s.cfg s.link n
    obtain ⟨x, rfl⟩ := List.length_eq_one_iff.mp hlen
    exact ⟨_, x, exec_frame_of_link (f := .rbits n) hturn, hout, htms, hwire⟩
  · obtain ⟨-, htms, hwire, r, hout, hlen⟩ := rbytes_holdsLine s.cfg s.link n
    exact ⟨_, r, exec_frame_of_link (f := .rbytes n) hturn, hout, hlen, htms, hwire⟩
  · rintro s n d hturn htms - hn rfl
    have hexec := exec_frame_of_link (f := .rbits n) hturn
    refine ⟨fun hposs hne => ?_, fun hposs hne => ?_⟩
    · obtain ⟨r, k, hrun, hvalue⟩ := runRbits_of_shiftTap (R := .dr) (c := s.cfg) htms hposs hne hn
      exact ⟨r, k, hexec.trans (by rw [runOnLink, hrun]; rfl), hvalue⟩
    · obtain ⟨r, k, hrun, hvalue⟩ := runRbits_of_shiftTap (R := .ir) (c := s.cfg) htms hposs hne hn
      exact ⟨r, k, hexec.trans (by rw [runOnLink, hrun]; rfl), hvalue⟩
  · have hexec : exec i s = .next { s with link :=
        (s.link.dataClocks s.cfg d).2.respond (packBytes (s.link.dataClocks s.cfg d).1) } := by
      obtain ⟨n, rfl, rfl⟩ | ⟨rfl, -⟩ := hi
      · exact exec_frame_of_link (f := .rbytes n) hturn
      · exact exec_frame_of_link (f := .rwbytes d) hturn
    have hd : d.length % 8 = 0 := by
      obtain ⟨n, -, rfl⟩ | ⟨-, hd⟩ := hi
      · simp
      · exact hd
    refine ⟨fun hposs hne => ?_, fun hposs hne => ?_⟩
    · obtain ⟨r, hrun, hvalue⟩ := respond_of_shiftTap (R := .dr) (c := s.cfg) htms hposs hne hd
      exact ⟨r, hexec.trans (by rw [hrun]; rfl), hvalue⟩
    · obtain ⟨r, hrun, hvalue⟩ := respond_of_shiftTap (R := .ir) (c := s.cfg) htms hposs hne hd
      exact ⟨r, hexec.trans (by rw [hrun]; rfl), hvalue⟩

/-! ## TMS frames -/

/-- A TMS frame is its first event, then a frame of the others (R223). -/
theorem runWtms_cons (c : Config) (m d : Bool) {ev : Bits} (l : Link) (hne : ev ≠ []) :
    l.runWtms c (m :: ev) d = (l.runWtms c [m] d).runWtms c ev d := by
  obtain ⟨e, he⟩ : ∃ e, ev.getLast? = some e := ⟨_, List.getLast?_eq_some_getLast hne⟩
  have hlast : (m :: ev).getLast? = some e := by rw [List.getLast?_cons, he]; rfl
  generalize hk : (l.clock c m d).2 = k
  have hfirst : l.runWtms c [m] d = k.reline (some m) k.out k.wire k.torn := by rw [← hk]; rfl
  obtain ⟨-, -, hout, hwire⟩ := tmsClocks_spec c d ev k
  rw [hfirst, Link.runWtms, Link.runWtms, Link.tmsClocks, hk, tmsClocks_reline, hlast, he, ← hout, ← hwire,
    ← tmsClocks_torn c d ev k]
  rfl

/-- The registers after the shift of a clock whose state before it is `u` (R224). -/
theorem shift_registers (u : Tap) (d : Bool) (l : Link) : ∃ k, (l.shift u d).2 = { l with
    free := k
    drSh := if u = .shdr then shiftedIn l.drSh [d] else l.drSh
    irSh := if u = .shir then shiftedIn l.irSh [d] else l.irSh } := by
  by_cases hdr : u = .shdr
  · subst hdr
    cases hr : l.drSh with
    | nil => exact ⟨_, by simp [Link.shift, hr, shiftReg, Link.draw, shiftedIn]; rfl⟩
    | cons b r => exact ⟨l.free, by simp [shift_shdr hr, shiftedIn]⟩
  · by_cases hir : u = .shir
    · subst hir
      cases hr : l.irSh with
      | nil => exact ⟨_, by simp [Link.shift, hr, shiftReg, Link.draw, shiftedIn]; rfl⟩
      | cons b r => exact ⟨l.free, by simp [shift_shir hr, shiftedIn]⟩
    · exact ⟨_, by simp [Link.shift, hdr, hir, Link.draw]; rfl⟩

theorem enter_registers (c : Config) (u : Tap) (l : Link) : l.enter c u = { l with
    drSh := if u = .capdr then bitsOfNat c.drLen c.drCapture else l.drSh
    irSh := if u = .capir then bitsOfNat c.irLen c.irCapture else l.irSh
    drUpd := if u = .updr then l.drSh else l.drUpd
    irUpd := if u = .upir then l.irSh else l.irUpd } := by
  cases u <;> rfl

/-- No edge leads from a shift state to an update state (R112). -/
theorem shiftTap_of_nxt_update {u : Tap} {m : Bool} :
    (nxt u m = .updr → u ≠ .shdr) ∧ (nxt u m = .upir → u ≠ .shir) := by
  cases u <;> cases m <;> decide

/-- The registers after one event from a known state: the shift of the state left, capture and update of the state
entered (R224, R232, R234). -/
theorem clock_registers {c : Config} {m d : Bool} {l : Link} {u : Tap} (hposs : l.poss = [u]) :
    ∃ k, (l.clock c m d).2 = { l with
      poss := [nxt u m], free := k
      drSh := if nxt u m = .capdr then bitsOfNat c.drLen c.drCapture
        else if u = .shdr then shiftedIn l.drSh [d] else l.drSh
      irSh := if nxt u m = .capir then bitsOfNat c.irLen c.irCapture
        else if u = .shir then shiftedIn l.irSh [d] else l.irSh
      drUpd := if nxt u m = .updr then l.drSh else l.drUpd
      irUpd := if nxt u m = .upir then l.irSh else l.irUpd } := by
  obtain ⟨k, hk⟩ := shift_registers u d l
  obtain ⟨hdr, hir⟩ := shiftTap_of_nxt_update (u := u) (m := m)
  have hdrUpd : (if nxt u m = .updr then if u = .shdr then shiftedIn l.drSh [d] else l.drSh else l.drUpd) =
      if nxt u m = .updr then l.drSh else l.drUpd := if_ctx_congr Iff.rfl (fun h => if_neg (hdr h)) fun _ => rfl
  have hirUpd : (if nxt u m = .upir then if u = .shir then shiftedIn l.irSh [d] else l.irSh else l.irUpd) =
      if nxt u m = .upir then l.irSh else l.irUpd := if_ctx_congr Iff.rfl (fun h => if_neg (hir h)) fun _ => rfl
  refine ⟨k, ?_⟩
  rw [clock_known hposs, hk, enter_registers]
  simp only [hdrUpd, hirUpd]

/-- Settles O53: the clocks of the frame, one event, and the composition of events. -/
theorem tmsFrameMovesRemote : Obligations.TmsFrameMovesRemote := by
  unfold Obligations.TmsFrameMovesRemote
  refine ⟨fun s ev d hturn => ?_, fun s m d u hturn hposs => ?_, fun s t m d ev hturn hne hfirst => ?_⟩
  · obtain ⟨hposs, -, hout, hwire⟩ := tmsClocks_spec s.cfg d ev s.link
    refine ⟨_, exec_frame_of_link (f := .wtms ev d) hturn, hposs, fun e he => ?_, hout, hwire, runFrame_torn _ _ _⟩
    simp [Link.runFrame, Link.runWtms, he]
  · obtain ⟨k, hk⟩ := clock_registers (c := s.cfg) (m := m) (d := d) hposs
    refine ⟨k, (exec_frame_of_link (f := .wtms [m] d) hturn).trans ?_⟩
    rw [runOnLink, Link.runFrame, Link.runWtms, Link.tmsClocks, Link.tmsClocks, hk]
    rfl
  · obtain rfl : runOnLink (.wtms [m] d) s = t :=
      Host.Outcome.next.inj ((exec_frame_of_link (f := .wtms [m] d) hturn).symm.trans hfirst)
    refine (exec_frame_of_link (f := .wtms (m :: ev) d) hturn).trans (Eq.trans ?_
      (exec_frame_of_link (f := .wtms ev d) (s := runOnLink (.wtms [m] d) s) hturn).symm)
    simp only [runOnLink, Link.runFrame, runWtms_cons s.cfg m d s.link hne]

end Sys2Proof.Machine

/-! # The frames ahead of the remote (spec/43_link_model.md R221, R227, R236)

A stream of whole frames by its list of frames; the remote once it has interpreted what is sent and queued, and what each
part of an operation adds to it. -/

namespace Sys2Proof

/-! ## A frame decoded from the front of a longer stream -/

section
variable {bs rest : List Byte} {f : Frame}

theorem decodeWbits_append (h : decodeWbits bs = .ok (f, rest)) (more : List Byte) :
    decodeWbits (bs ++ more) = .ok (f, rest ++ more) := by
  match bs, h with
  | n :: p :: tl, h =>
    simp only [decodeWbits, List.cons_append] at h ⊢
    split at h <;> simp_all

theorem decodeWtms_append (h : decodeWtms bs = .ok (f, rest)) (more : List Byte) :
    decodeWtms (bs ++ more) = .ok (f, rest ++ more) := by
  match bs, h with
  | n :: p :: tl, h =>
    simp only [decodeWtms, List.cons_append] at h ⊢
    split at h <;> simp_all

theorem decodeRbits_append (h : decodeRbits bs = .ok (f, rest)) (more : List Byte) :
    decodeRbits (bs ++ more) = .ok (f, rest ++ more) := by
  match bs, h with
  | n :: tl, h =>
    simp only [decodeRbits, List.cons_append] at h ⊢
    split at h <;> simp_all

theorem decodeRbytes_append (h : decodeRbytes bs = .ok (f, rest)) (more : List Byte) :
    decodeRbytes (bs ++ more) = .ok (f, rest ++ more) := by
  match bs, h with
  | lo :: hi :: tl, h =>
    simp only [decodeRbytes, List.cons_append] at h ⊢
    simp_all

theorem decodePayload_append {mk : Bits → Frame} (h : decodePayload mk bs = .ok (f, rest)) (more : List Byte) :
    decodePayload mk (bs ++ more) = .ok (f, rest ++ more) := by
  match bs, h with
  | lo :: hi :: tl, h =>
    simp only [decodePayload, List.cons_append] at h ⊢
    split at h
    · cases h
    · next hlen =>
      obtain ⟨rfl, rfl⟩ : mk (unpackBytes (tl.take (countOf16 lo hi))) = f ∧ tl.drop (countOf16 lo hi) = rest := by
        simpa using h
      rw [if_neg (by rw [List.length_append]; omega), List.take_append_of_le_length (by omega),
        List.drop_append_of_le_length (by omega)]

theorem ite_eq_imp {α : Type} {p : Prop} [Decidable p] {a b x a' b' x' : α} (ha : a = x → a' = x') (hb : b = x → b' = x')
    (h : (if p then a else b) = x) : (if p then a' else b') = x' := by
  by_cases hp : p
  · rw [if_pos hp] at h ⊢
    exact ha h
  · rw [if_neg hp] at h ⊢
    exact hb h

/-- The bytes after a frame do not matter to its decoding (R81). -/
theorem decodeFrame_append {c : Config} (h : decodeFrame c bs = .ok (f, rest)) (more : List Byte) :
    decodeFrame c (bs ++ more) = .ok (f, rest ++ more) := by
  match bs, h with
  | op :: tl, h =>
    simp only [decodeFrame, List.cons_append] at h ⊢
    exact ite_eq_imp (decodeWbits_append · more) (ite_eq_imp (decodePayload_append · more)
      (ite_eq_imp (decodeWtms_append · more) (ite_eq_imp (decodeRbits_append · more)
        (ite_eq_imp (decodeRbytes_append · more) (ite_eq_imp (decodePayload_append · more) fun h => by cases h))))) h

theorem decodeFrame_rest_shorter {c : Config} (h : decodeFrame c bs = .ok (f, rest)) : rest.length < bs.length := by
  obtain ⟨k, rfl, hk⟩ := decodeFrame_rest h
  rw [List.length_drop]
  omega

end

end Sys2Proof

namespace Sys2Proof.Machine

/-! ## Streams of whole frames -/

/-- The bytes are these frames, one after the other (20_memory.md R42). -/
inductive Parses (c : Config) : List Byte → List Frame → Prop where
  | nil : Parses c [] []
  | cons {bs rest : List Byte} {f : Frame} {fs : List Frame} (h : decodeFrame c bs = .ok (f, rest))
      (tail : Parses c rest fs) : Parses c bs (f :: fs)

section
variable {c : Config}

theorem Parses.append {bs more : List Byte} {fs gs : List Frame} (h : Parses c bs fs) (k : Parses c more gs) :
    Parses c (bs ++ more) (fs ++ gs) := by
  induction h with
  | nil => exact k
  | cons hf _ ih => exact .cons (decodeFrame_append hf more) ih

theorem Parses.frame {f : Frame} (hwf : c.wf = true) (hf : f.wellFormed c = true) : Parses c (encodeFrame c f) [f] := by
  have hdecode := decodeFrame_encodeFrame [] hwf hf
  rw [List.append_nil] at hdecode
  exact .cons hdecode .nil

theorem wholeFramesN_of_parses {bs : List Byte} {fs : List Frame} (h : Parses c bs fs) {n : Nat}
    (hn : bs.length ≤ n) : wholeFramesN c n bs = true := by
  induction h generalizing n with
  | nil => cases n <;> simp [wholeFramesN]
  | cons hf _ ih =>
    have hshorter := decodeFrame_rest_shorter hf
    cases n with
    | zero => omega
    | succ n =>
      rw [wholeFramesN, hf]
      split
      · rfl
      · exact ih (by omega)

theorem parses_of_wholeFramesN {n : Nat} {bs : List Byte} (h : wholeFramesN c n bs = true) : ∃ fs, Parses c bs fs := by
  induction n generalizing bs with
  | zero =>
    obtain rfl : bs = [] := by simpa [wholeFramesN] using h
    exact ⟨[], .nil⟩
  | succ n ih =>
    rw [wholeFramesN] at h
    split at h
    · next hnil => exact ⟨[], hnil ▸ .nil⟩
    · split at h
      · next f rest hf =>
        obtain ⟨fs, hfs⟩ := ih h
        exact ⟨f :: fs, .cons hf hfs⟩
      · cases h

theorem wholeFrames_iff {bs : List Byte} : wholeFrames c bs = true ↔ ∃ fs, Parses c bs fs :=
  ⟨parses_of_wholeFramesN, fun ⟨_, h⟩ => wholeFramesN_of_parses h le_rfl⟩

end

/-! ## The link without its wire -/

/-- The link as the frames see it: nothing on the wire. -/
def Link.bare (l : Link) : Link := { l with wire := [] }

/-- The wire replaced. -/
def Link.withWire (w : List (List Byte)) (l : Link) : Link := { l with wire := w }

/-- The frames, one after the other. -/
def Link.runFrames (c : Config) (fs : List Frame) (l : Link) : Link := fs.foldl (fun l f => l.runFrame c f) l

theorem runFrames_append (c : Config) (fs gs : List Frame) (l : Link) :
    l.runFrames c (fs ++ gs) = (l.runFrames c fs).runFrames c gs := List.foldl_append

section
variable (c : Config) (w : List (List Byte)) (l : Link)

theorem dataClocks_withWire (b : Bits) :
    (l.withWire w).dataClocks c b = ((l.dataClocks c b).1, (l.dataClocks c b).2.withWire w) := by
  obtain ⟨-, ht, ho, -⟩ := dataClocks_spec c b l
  refine (dataClocks_reline c l.out w l.torn l b).trans ?_
  rw [← ht, ← ho, ← dataClocks_torn c b l]
  rfl

theorem tmsClocks_withWire (d : Bool) (ev : Bits) :
    (l.withWire w).tmsClocks c d ev = (l.tmsClocks c d ev).withWire w := by
  obtain ⟨-, ht, ho, -⟩ := tmsClocks_spec c d ev l
  refine (tmsClocks_reline c l.tms l.out w l.torn l d ev).trans ?_
  rw [← ht, ← ho, ← tmsClocks_torn c d ev l]
  rfl

theorem bitsResponse_withWire (v : Bits) :
    (l.withWire w).bitsResponse c v = ((l.bitsResponse c v).1, (l.bitsResponse c v).2.withWire w) := by
  unfold Link.bitsResponse
  cases c.readBitsJustify <;> rfl

/-- A frame does not look at the wire (R222, R223). -/
theorem runFrame_withWire (f : Frame) : (l.withWire w).runFrame c f = (l.runFrame c f).withWire w := by
  cases f with
  | wbits b => exact congrArg Prod.snd (dataClocks_withWire c w l b)
  | wbytes b => exact congrArg Prod.snd (dataClocks_withWire c w l b)
  | wtms ev d => simp only [Link.runFrame, Link.runWtms, tmsClocks_withWire]; rfl
  | rbits n => simp only [Link.runFrame, runRbits_eq, dataClocks_withWire, bitsResponse_withWire]; rfl
  | rbytes n => simp only [Link.runFrame, Link.runRbytes, dataClocks_withWire]; rfl
  | rwbytes b => simp only [Link.runFrame, Link.runRwbytes, dataClocks_withWire]; rfl

theorem runFrame_bare (f : Frame) : (l.runFrame c f).bare = l.bare.runFrame c f := (runFrame_withWire c [] l f).symm

end

theorem keep_bare (n : Nat) (l : Link) : (l.keep n).bare = l.bare := rfl

/-- Interpreting whole frames runs them in order and leaves nothing on the wire (R221, R227). -/
theorem settleN_of_parses {c : Config} {bs : List Byte} {fs : List Frame} (h : Parses c bs fs) {n : Nat} {l : Link}
    (hl : l.stream = bs) (hn : bs.length ≤ n) :
    (l.settleN c n).bare = l.bare.runFrames c fs ∧ (l.settleN c n).stream = [] := by
  induction h generalizing n l with
  | nil =>
    have hnothing : l.settleN c n = l := by
      cases n with
      | zero => rfl
      | succ n => rw [Link.settleN, hl]; rfl
    rw [hnothing]
    exact ⟨rfl, hl⟩
  | @cons bs rest f fs hf _ ih =>
    have hshorter := decodeFrame_rest_shorter hf
    cases n with
    | zero => omega
    | succ n =>
      rw [← hl] at hf
      have hrest : ((l.keep rest.length).runFrame c f).stream = rest := by
        rw [Link.stream, (runFrame_spec c f _).1]
        exact keep_stream_of_decodeFrame hf
      obtain ⟨hbare, hstream⟩ := ih (n := n) hrest (by omega)
      rw [Link.settleN, hf]
      refine ⟨hbare.trans ?_, hstream⟩
      rw [runFrame_bare, keep_bare]
      rfl

theorem settle_of_parses {c : Config} {fs : List Frame} {l : Link} (h : Parses c l.stream fs) :
    (l.settle c).bare = l.bare.runFrames c fs ∧ (l.settle c).stream = [] := settleN_of_parses h rfl le_rfl

/-! ## What is ahead -/

/-- All that is sent and queued is whole frames, and the remote is `l` once it has interpreted them (R236). -/
def Ahead (s : State) (l : Link) : Prop :=
  ∃ fs, Parses s.cfg (s.link.stream ++ s.buf) fs ∧ s.link.bare.runFrames s.cfg fs = l

theorem Ahead.remote {s : State} {l : Link} (h : Ahead s l) : s.remote.bare = l ∧ s.remote.stream = [] := by
  obtain ⟨fs, hfs, rfl⟩ := h
  rw [← deliver_stream] at hfs
  exact settle_of_parses hfs

theorem ahead_of_wholeFrames {s : State} (h : wholeFrames s.cfg (s.link.stream ++ s.buf) = true) :
    Ahead s s.remote.bare := by
  obtain ⟨fs, hfs⟩ := wholeFrames_iff.mp h
  have hahead : Ahead s (s.link.bare.runFrames s.cfg fs) := ⟨fs, hfs, rfl⟩
  rwa [hahead.remote.1]

theorem Ahead.wholeFrames {s : State} {l : Link} (h : Ahead s l) :
    Machine.wholeFrames s.cfg (s.link.stream ++ s.buf) = true := by
  obtain ⟨fs, hfs, -⟩ := h
  exact wholeFrames_iff.mpr ⟨fs, hfs⟩

/-- A link in one known state with the line at a known level. -/
def Link.At (u : Tap) (m : Bool) (l : Link) : Prop := l.poss = [u] ∧ l.tms = some m

theorem synchronised_iff {s : State} : s.Synchronised ↔ ∃ l, Ahead s l ∧ l.At s.tap (entry s.tap) := by
  constructor
  · rintro ⟨hframes, htap, hlevel⟩
    exact ⟨_, ahead_of_wholeFrames hframes, htap, hlevel⟩
  · rintro ⟨l, hahead, htap, hlevel⟩
    obtain ⟨hremote, -⟩ := hahead.remote
    subst hremote
    exact ⟨hahead.wholeFrames, htap, hlevel⟩

section
variable {s t : State} {l : Link}

/-- Only the parameters, the link and the buffer matter to what is ahead. -/
theorem Ahead.congr (h : Ahead s l) (hcfg : t.cfg = s.cfg) (hlink : t.link = s.link) (hbuf : t.buf = s.buf) :
    Ahead t l := by
  rwa [Ahead, hcfg, hlink, hbuf]

/-- Handing the buffer over changes nothing ahead (R144). -/
theorem Ahead.flushed (h : Ahead s l) : Ahead (flushed s) l := by
  obtain ⟨fs, hfs, hl⟩ := h
  refine ⟨fs, ?_, hl⟩
  show Parses s.cfg ((s.link.deliver s.buf).stream ++ []) fs
  rwa [List.append_nil, deliver_stream]

theorem Ahead.flushBuf (h : Ahead s l) (ht : flushBuf s = .ok () t) : Ahead t l := by
  obtain ⟨-, hq⟩ | ⟨-, -, hq⟩ | ⟨e, u, -, -, hq, -⟩ := flushBuf_cases s <;> rw [hq] at ht <;> cases ht
  · exact h
  · exact h.flushed

theorem Ahead.bufAppend {f : Frame} {bs : List Byte} (h : Ahead s l) (hbs : Parses s.cfg bs [f]) :
    Ahead (bufAppend bs s) (l.runFrame s.cfg f) := by
  obtain ⟨fs, hfs, rfl⟩ := h
  refine ⟨fs ++ [f], ?_, runFrames_append _ _ _ _⟩
  show Parses s.cfg (s.link.stream ++ (s.buf ++ bs)) (fs ++ [f])
  rw [← List.append_assoc]
  exact hfs.append hbs

/-- A frame queued is one more frame ahead, with or without an overflow flush (R142). -/
theorem Ahead.emit {f : Frame} (h : Ahead s l) (hwf : s.cfg.wf = true) (hf : f.wellFormed s.cfg = true)
    (ht : emit f s = .ok () t) : Ahead t (l.runFrame s.cfg f) := by
  have hparses := Parses.frame hwf hf
  obtain ⟨-, hq⟩ | ⟨-, hq⟩ | ⟨-, -, -, hq⟩ | ⟨e, u, -, -, hq, -⟩ := queueBytes_cases (encodeFrame s.cfg f) s <;>
    rw [Machine.emit, hq] at ht <;> cases ht
  · exact h.bufAppend hparses
  · exact h.flushed.bufAppend hparses

/-- With nothing queued the link, once settled, is what was ahead; a read takes its response off it (R227). -/
theorem Ahead.txRead {n : Nat} {r : List Byte} (h : Ahead s l) (hbuf : s.buf = []) (ht : txRead n s = .ok r t) :
    Ahead t { l with out := l.out.drop n } := by
  obtain ⟨fs, hfs, hl⟩ := h
  rw [hbuf, List.append_nil] at hfs
  obtain ⟨hbare, hstream⟩ := settle_of_parses hfs
  obtain ⟨bs, -, -, -, hq⟩ | ⟨e, u, -, hq, -⟩ | ⟨e, u, -, hq, -⟩ := txRead_cases n s <;> rw [hq] at ht <;> cases ht
  refine ⟨[], ?_, ?_⟩
  · show Parses s.cfg ((s.link.settle s.cfg).stream ++ s.buf) []
    rw [hstream, hbuf]
    exact .nil
  · show { (s.link.settle s.cfg).bare with out := (s.link.settle s.cfg).bare.out.drop n } = _
    rw [hbare, hl]

end

end Sys2Proof.Machine

/-! # What the parts of an operation put ahead of the remote (spec/43_link_model.md R236)

Each part that ends with a result, as a function on what was ahead before: events, data clocks, and responses taken. -/

namespace Sys2Proof.Machine

/-! ## Events one at a time -/

/-- A TMS frame of one event, with its TDI bit. -/
def Link.event (c : Config) (e : Bool × Bool) (l : Link) : Link := l.runWtms c [e.1] e.2

/-- Such frames, one after the other. -/
def Link.events (c : Config) (es : List (Bool × Bool)) (l : Link) : Link := es.foldl (fun l e => l.event c e) l

theorem events_append (c : Config) (es es' : List (Bool × Bool)) (l : Link) :
    l.events c (es ++ es') = (l.events c es).events c es' := List.foldl_append

/-- A TMS frame is its events one at a time (R223). -/
theorem runWtms_eq_events (c : Config) (ev : Bits) (d : Bool) (l : Link) :
    l.runWtms c ev d = l.events c (ev.map fun m => (m, d)) := by
  induction ev generalizing l with
  | nil => rfl
  | cons m ms ih =>
    by_cases hms : ms = []
    · rw [hms]
      rfl
    · rw [runWtms_cons c m d l hms, ih]
      rfl

section
variable {c : Config} {u : Tap} {l : Link}

theorem event_at (h : l.poss = [u]) (e : Bool × Bool) : (l.event c e).At (nxt u e.1) e.1 := by
  obtain ⟨k, hk⟩ := clock_registers (c := c) (m := e.1) (d := e.2) h
  rw [Link.event, Link.runWtms, Link.tmsClocks, Link.tmsClocks, hk]
  exact ⟨rfl, rfl⟩

/-- Events move a known remote, and leave the line at the last one (R223). -/
theorem events_at {es : List (Bool × Bool)} {m : Bool} (h : l.At u m) :
    (l.events c es).At (applyEvents u (es.map Prod.fst)) ((es.map Prod.fst).getLastD m) := by
  induction es generalizing l u m with
  | nil => exact h
  | cons e es ih =>
    obtain ⟨hposs, -⟩ := h
    rw [List.map_cons, applyEvents_cons, List.getLastD_cons]
    exact ih (event_at hposs e)

/-! ## Data clocks where the remote stays -/

/-- Data clocks hold the line, so a known remote stays where that level keeps it (R222). -/
theorem dataClocks_at {m : Bool} (h : l.At u m) (hstay : nxt u m = u) (b : Bits) : (l.dataClocks c b).2.At u m := by
  induction b generalizing l with
  | nil => exact h
  | cons d ds ih =>
    obtain ⟨hposs, htms⟩ := h
    obtain ⟨-, hclock, hkept, -⟩ := dataClock_spec c d l
    have hheld : (l.dataClock c d).2.poss = [u] := by rw [hclock m htms, clock_known hposs, hstay]
    exact ih ⟨hheld, hkept.trans htms⟩

theorem HoldsLine.at {f : Frame} {bs : Bits} {n : Nat} {m : Bool} (hf : HoldsLine c f l bs n) (h : l.At u m)
    (hstay : nxt u m = u) : (l.runFrame c f).At u m :=
  ⟨hf.poss.trans (dataClocks_at h hstay bs).1, hf.tms.trans h.2⟩

theorem dataClocks_append (b b' : Bits) : (l.dataClocks c (b ++ b')).2 = ((l.dataClocks c b).2.dataClocks c b').2 := by
  induction b generalizing l with
  | nil => rfl
  | cons d ds ih => exact ih

end

/-! ## Parts that move the pointer -/

section
variable {s t : State} {l : Link}

theorem writeTms_cfg {ev : Bits} (h : writeTms ev s = .ok () t) : t.cfg = s.cfg :=
  ((writeTms_runsWithin (w := tableRow (.writeTms ev)) rfl ev s).ok _ _ h).cfg

theorem changeState_cfg {target : Tap} (h : changeState target s = .ok () t) : t.cfg = s.cfg :=
  ((changeState_runsWithin (w := tableRow .goIdle) rfl rfl target s).ok _ _ h).cfg

theorem writeSeq_cfg {b : Bits} (h : writeSeq b s = .ok () t) : t.cfg = s.cfg :=
  ((writeSeq_runsWithin (w := tableRow (.write b)) rfl b s).ok _ _ h).cfg

theorem readSeq_confined {n : Nat} {r : Bits} (h : readSeq n s = .ok r t) : t.cfg = s.cfg ∧ t.tap = s.tap :=
  have hconfined := (readSeq_runsWithin (w := tableRow (.read n)) n s).ok _ _ h
  ⟨hconfined.cfg, hconfined.tap rfl⟩

theorem Ahead.writeTms {ev : Bits} (h : Ahead s l) (hwf : s.cfg.wf = true) (ht : writeTms ev s = .ok () t) :
    ev ≠ [] ∧ Ahead t (l.events s.cfg (ev.map fun m => (m, tdiSlot s))) := by
  have hev := (tmsErr_eq_none _ _).mp (check_passed ht (tmsErr s.cfg ev) (by simp))
  rw [Machine.writeTms, (tmsErr_eq_none _ _).mpr hev, check_none, check_nil, bind_eq_ok] at ht
  obtain ⟨_, u, hu, ht⟩ := ht
  cases ht
  have hframe : (Frame.wtms ev (tdiSlot s)).wellFormed s.cfg = true := decide_eq_true hev
  have hahead := h.emit hwf hframe hu
  rw [Link.runFrame, runWtms_eq_events] at hahead
  exact ⟨List.length_pos_iff.mp hev.1, hahead.congr rfl rfl rfl⟩

/-- The pieces of a route are its events, the first with the carry or the default in its TDI slot (R182). -/
theorem Ahead.sendTms {ps : List Bits} (h : Ahead s l) (hwf : s.cfg.wf = true) (ht : sendTms ps s = .ok () t) :
    ∃ es : List (Bool × Bool), es.map Prod.fst = ps.flatten ∧ (∀ e rest, es = e :: rest → e.2 = tdiSlot s) ∧
      Ahead t (l.events s.cfg es) := by
  induction ps generalizing s l with
  | nil =>
    cases ht
    exact ⟨[], rfl, nofun, h⟩
  | cons ev ps ih =>
    rw [Machine.sendTms, bind_eq_ok] at ht
    obtain ⟨_, u, hu, ht⟩ := ht
    obtain ⟨hne, hahead⟩ := h.writeTms hwf hu
    have hcfg := writeTms_cfg hu
    obtain ⟨es, hes, -, hrest⟩ := ih hahead (hcfg ▸ hwf) ht
    rw [hcfg, ← events_append] at hrest
    refine ⟨_, ?_, ?_, hrest⟩
    · rw [List.map_append, hes, List.map_map, List.flatten_cons]
      exact congrArg (· ++ _) (List.map_id ev)
    · obtain ⟨m, ms, rfl⟩ := List.exists_cons_of_ne_nil hne
      intro e rest he
      rw [List.map_cons, List.cons_append] at he
      exact (List.cons.inj he).1 ▸ rfl

/-- A change of state puts the route's events ahead (R182). -/
theorem Ahead.changeState {target : Tap} {ev : Bits} (h : Ahead s l) (hwf : s.cfg.wf = true)
    (hroute : route s.tap target = .ok ev) (ht : changeState target s = .ok () t) :
    ∃ es : List (Bool × Bool), es.map Prod.fst = ev ∧ (∀ e rest, es = e :: rest → e.2 = tdiSlot s) ∧
      Ahead t (l.events s.cfg es) := by
  rw [changeState_of_route hroute, bind_eq_ok] at ht
  obtain ⟨_, u, hu, ht⟩ := ht
  cases ht
  obtain ⟨es, hes, hfirst, hahead⟩ := h.sendTms hwf hu
  have hmax : 1 ≤ s.cfg.tmsMaxEvents := Nat.le_trans (by decide) (Config.tmsMaxEvents_ge hwf)
  rw [chunks_flatten _ _ _ hmax le_rfl] at hes
  exact ⟨es, hes, hfirst, hahead.congr rfl rfl rfl⟩

/-! ## Parts that write data -/

theorem queueBytes_size {f : List Byte} (h : queueBytes f s = .ok () t) : f.length ≤ s.cfg.maxFrame :=
  (frameErr_eq_none _ _).mp (check_passed h (frameErr s.cfg f.length) (by simp))

/-- A frame of whole bytes that was queued was in its bounds. -/
theorem wholeBytes_of_emit {f : Frame} {b : Bits} (hne : b ≠ []) (hb : b.length % 8 = 0) (hsize : f.size = 3 + b.length / 8)
    (ht : Machine.emit f s = .ok () t) : wholeBytes (s.cfg.maxFrame - 3) b = true := by
  have hmax := queueBytes_size ht
  have hpos := List.length_pos_iff.mpr hne
  rw [encodeFrame_length, hsize] at hmax
  simp only [wholeBytes, Bool.and_eq_true, decide_eq_true_eq]
  omega

theorem Ahead.emitBytes {b : Bits} (h : Ahead s l) (hwf : s.cfg.wf = true) (hb : b.length % 8 = 0)
    (ht : emitBytes b s = .ok () t) : Ahead t (l.dataClocks s.cfg b).2 := by
  rw [Machine.emitBytes] at ht
  split at ht
  · next hnil =>
    cases ht
    rwa [hnil]
  · next hne => exact h.emit (f := .wbytes b) hwf (wholeBytes_of_emit hne hb rfl ht) ht

theorem Ahead.emitBits {b : Bits} (h : Ahead s l) (hwf : s.cfg.wf = true) (hb : b.length ≤ 7)
    (ht : emitBits b s = .ok () t) : Ahead t (l.dataClocks s.cfg b).2 := by
  rw [Machine.emitBits] at ht
  split at ht
  · next hnil =>
    cases ht
    rwa [hnil]
  · next hne =>
    have hpos := List.length_pos_iff.mpr hne
    have hmax := Config.writeBitsMax_ge hwf
    exact h.emit (f := .wbits b) hwf (decide_eq_true ⟨by omega, by omega⟩) ht

theorem bytePart_append_bitPart (b : Bits) : bytePart b ++ bitPart b = b := List.take_append_drop _ _

/-- A `WRITE` clocks all its bits but the last, which stays behind as the carry (R151). -/
theorem Ahead.writeSeq {b : Bits} (h : Ahead s l) (hwf : s.cfg.wf = true) (ht : writeSeq b s = .ok () t) :
    Ahead t (l.dataClocks s.cfg (sentBits b)).2 := by
  obtain ⟨-, hk⟩ | ⟨e, -, hk⟩ := check_cases [writeErr s.cfg b, carryErr s] s fun s =>
    (Machine.emitBytes (bytePart (sentBits b)) s).bind fun _ s =>
      (Machine.emitBits (bitPart (sentBits b)) s).bind fun _ s => .ok () (setCarry (lastBit b) s)
  · rw [Machine.writeSeq, hk, bind_eq_ok] at ht
    obtain ⟨_, u, hu, ht⟩ := ht
    rw [bind_eq_ok] at ht
    obtain ⟨_, v, hv, ht⟩ := ht
    cases ht
    have hcfg : u.cfg = s.cfg := ((emitBytes_runsWithin (w := tableRow (.writeBytes b)) _ s).ok _ _ hu).cfg
    have hbytes := h.emitBytes hwf (by rw [bytePart_sentBits_length]; omega) hu
    have hbits := hbytes.emitBits (hcfg ▸ hwf) (by rw [bitPart_sentBits_length]; omega) hv
    rw [hcfg, ← dataClocks_append, bytePart_append_bitPart] at hbits
    exact hbits.congr rfl rfl rfl
  · rw [Machine.writeSeq, hk] at ht
    cases ht

/-! ## Parts that read -/

/-- A read exchange runs its frame and takes its response (20_memory.md R55). -/
theorem Ahead.exchange {f : Frame} {n : Nat} {r : List Byte} (h : Ahead s l) (hwf : s.cfg.wf = true)
    (hf : f.wellFormed s.cfg = true) (ht : exchange f n s = .ok r t) :
    Ahead t { l.runFrame s.cfg f with out := (l.runFrame s.cfg f).out.drop n } := by
  rw [Machine.exchange, bind_eq_ok] at ht
  obtain ⟨_, u, hu, ht⟩ := ht
  rw [bind_eq_ok] at ht
  obtain ⟨_, v, hv, ht⟩ := ht
  exact ((h.emit hwf hf hu).flushBuf hv).txRead (flushBuf_empties (.inl hv)) ht

/-- A read leaves a known remote where it is if the line keeps it there. -/
def KeepsAhead {α : Type} (u : Tap) (m : Bool) (s : State) (r : Res α) : Prop :=
  ∀ a t, r = .ok a t → t.cfg = s.cfg ∧ ((∃ l, Ahead s l ∧ l.At u m) → ∃ l, Ahead t l ∧ l.At u m)

theorem KeepsAhead.bind {α β : Type} {u : Tap} {m : Bool} {r : Res α} {f : α → State → Res β} (h : KeepsAhead u m s r)
    (k : ∀ a t, t.cfg = s.cfg → KeepsAhead u m t (f a t)) : KeepsAhead u m s (r.bind f) := by
  intro b v hv
  rw [bind_eq_ok] at hv
  obtain ⟨a, t, ht, hv⟩ := hv
  obtain ⟨hcfg, hkeep⟩ := h a t ht
  obtain ⟨hcfg', hkeep'⟩ := k a t hcfg b v hv
  exact ⟨hcfg'.trans hcfg, fun hl => hkeep' (hkeep hl)⟩

theorem KeepsAhead.pure {α : Type} (u : Tap) (m : Bool) (a : α) (s : State) : KeepsAhead u m s (.ok a s) := by
  intro _ _ h
  cases h
  exact ⟨rfl, id⟩

theorem KeepsAhead.check {α : Type} {u : Tap} {m : Bool} {es : List (Option Err)} {k : State → Res α}
    (h : (∀ e ∈ es, e = none) → KeepsAhead u m s (k s)) : KeepsAhead u m s (check es s k) := by
  obtain ⟨hpass, hk⟩ | ⟨e, -, hk⟩ := check_cases es s k <;> rw [hk]
  · exact h hpass
  · exact fun _ _ h => by cases h

section
variable {u : Tap} {m : Bool} (hwf : s.cfg.wf = true) (hstay : nxt u m = u)
include hwf hstay

theorem exchange_keepsAhead {f : Frame} {n : Nat} (hf : f.wellFormed s.cfg = true)
    (hline : ∀ l, ∃ bs k, HoldsLine s.cfg f l bs k) : KeepsAhead u m s (exchange f n s) := by
  intro r t ht
  refine ⟨((exchange_runsWithin (w := tableRow .flush) f n s).ok _ _ ht).cfg, ?_⟩
  rintro ⟨l, hl, hat⟩
  obtain ⟨bs, k, hf'⟩ := hline l
  exact ⟨_, hl.exchange hwf hf ht, hf'.at hat hstay⟩

theorem readBytes_keepsAhead {n : Nat} (hn : 1 ≤ n ∧ n ≤ s.cfg.readBytesMax) : KeepsAhead u m s (readBytes n s) :=
  (exchange_keepsAhead hwf hstay (f := .rbytes n) (decide_eq_true hn)
    fun l => ⟨_, _, rbytes_holdsLine s.cfg l n⟩).bind fun _ t _ => .pure u m _ t

theorem readBits_keepsAhead {n : Nat} (hn : 1 ≤ n ∧ n ≤ s.cfg.readBitsMax) : KeepsAhead u m s (readBits n s) :=
  (exchange_keepsAhead hwf hstay (f := .rbits n) (decide_eq_true hn)
    fun l => ⟨_, _, rbits_holdsLine s.cfg l n⟩).bind fun _ t _ => .pure u m _ t

theorem readSeq_keepsAhead (n : Nat) : KeepsAhead u m s (readSeq n s) := by
  refine .check fun hpass => ?_
  have hread := (readErr_eq_none _ _).mp (hpass (readErr s.cfg n) (by simp))
  have hmax := Config.readBitsMax_ge hwf
  refine KeepsAhead.bind ?_ fun a t hcfg => KeepsAhead.bind ?_ fun b v _ => .pure u m _ v
  · rw [readIf]
    split
    · next hpos => exact readBytes_keepsAhead hwf hstay ⟨hpos, hread⟩
    · exact .pure u m _ s
  · rw [readIf]
    split
    · next hpos => exact readBits_keepsAhead (hcfg ▸ hwf) hstay ⟨hpos, by rw [hcfg]; omega⟩
    · exact .pure u m _ t

theorem shiftBytes_keepsAhead {b : Bits} {n : Nat} (hb : wholeBytes (s.cfg.maxFrame - 3) b = true) :
    KeepsAhead u m s (exchange (.rwbytes b) n s) :=
  exchange_keepsAhead hwf hstay hb fun l => ⟨_, _, rwbytes_holdsLine s.cfg l b⟩

end

end

end Sys2Proof.Machine

/-! # `reset` and the remote (spec/42_engine.md R187, spec/43_link_model.md R229, R236)

The link a `reset` leaves, exactly; and the remote it makes known, from any link state. -/

namespace Sys2Proof.Machine

/-! ## The level of the reset pin -/

theorem or_and_self_right (a b : Nat) : (a ||| b) &&& b = b := by
  apply Nat.eq_of_testBit_eq
  intro i
  rw [Nat.testBit_and, Nat.testBit_or]
  cases a.testBit i <;> cases b.testBit i <;> rfl

/-- A bit taken out of a mask is not in it. -/
theorem without_and {w : Nat} {a b : PinMask} (hb : b.fits w = true) : PinMask.without w a b &&& b = 0 := by
  apply Nat.eq_of_testBit_eq
  intro i
  have hlt : b < 2 ^ w := by simpa [PinMask.fits] using hb
  rw [Nat.testBit_and, PinMask.without, BitVec.testBit_toNat, BitVec.getLsbD_and, BitVec.getLsbD_not, BitVec.getLsbD_ofNat,
    BitVec.getLsbD_ofNat, Nat.zero_testBit]
  by_cases hi : i < w
  · cases a.testBit i <;> cases b.testBit i <;> simp [hi]
  · simp [hi]

theorem Config.pinTrst_fits {c : Config} (hwf : c.wf = true) : c.pinTrst.fits c.dirWidth = true := by
  simp only [Config.wf, Bool.and_eq_true] at hwf
  exact hwf.1.1.2

section
variable {c : Config} (hwf : c.wf = true) (hpin : c.pinTrst ≠ 0)
include hwf hpin

theorem trstAsserted_assertPins : trstAsserted c (assertPins c) = true := by
  have hclear := without_and (a := c.pinIdle) (Config.pinTrst_fits hwf)
  unfold trstAsserted assertPins
  split
  · simp [hclear]
  · simp [or_and_self_right, hpin]

theorem trstAsserted_deassertPins : trstAsserted c (deassertPins c) = false := by
  have hclear := without_and (a := c.pinIdle) (Config.pinTrst_fits hwf)
  unfold trstAsserted deassertPins
  split
  · simp [or_and_self_right, hpin]
  · simp [hclear]

end

/-! ## The link after the pulse -/

theorem cut_eq (l : Link) : l.cut = { l with wire := if l.torn then [] else l.wire, torn := false } := by
  unfold Link.cut
  split
  · rfl
  · next h =>
    have : l.torn = false := by simpa using h
    cases l
    simp_all

/-- Less than a frame stands on the wire after a pin change (R229). -/
theorem changePins_truncated (c : Config) (v d : PinMask) (l : Link) :
    decodeFrame c (l.changePins c v d).stream = .error .truncated := by
  have hsettled := settle_truncated c l
  show decodeFrame c (l.settle c).cut.stream = _
  rw [cut_eq]
  cases h : (l.settle c).torn
  · exact hsettled
  · rfl

/-- The second of two pin changes finds nothing to interpret and nothing to cut. -/
theorem changePins_changePins (c : Config) (v v' d : PinMask) (l : Link) :
    (l.changePins c v d).changePins c v' d = ((l.settle c).cut.setPins c v d).setPins c v' d := by
  have hcut : (l.changePins c v d).cut = l.changePins c v d := by
    rw [Link.cut, (changePins_spec c v d l).2.1]
    rfl
  rw [Link.changePins, settle_truncated_eq (changePins_truncated c v d l), hcut]
  rfl

/-- What the pulse on the reset pin leaves of a settled link (R229). -/
def Link.pulsed (c : Config) (d : PinMask) (l : Link) : Link :=
  { l with
    tms := if d &&& c.pinTms ≠ 0 then some (decide (deassertPins c &&& c.pinTms ≠ 0)) else l.tms
    poss := if d &&& c.pinTrst ≠ 0 ∧ c.targetHasTrst = true then [.tlr] else l.poss
    torn := false
    wire := if l.torn then [] else l.wire }

theorem pulsed_stream (c : Config) (d : PinMask) (l : Link) :
    (l.pulsed c d).stream = if l.torn then [] else l.stream := by
  show (if l.torn then [] else l.wire).flatten = _
  split <;> rfl

theorem pulse_eq {c : Config} (hwf : c.wf = true) (d : PinMask) (l : Link) :
    (l.changePins c (assertPins c) d).changePins c (deassertPins c) d = (l.settle c).pulsed c d := by
  have htms {x y z : Option Bool} : (if d &&& c.pinTms = 0 then if d &&& c.pinTms = 0 then x else y else z) =
      if d &&& c.pinTms = 0 then x else z := by split <;> rfl
  rw [changePins_changePins, cut_eq]
  by_cases hdriven : d &&& c.pinTrst = 0
  · simp [Link.setPins, Link.pulsed, hdriven, htms, bne, BEq.beq]
  · have hpin : c.pinTrst ≠ 0 := fun h => hdriven (by rw [h, Nat.and_zero])
    simp [Link.setPins, Link.pulsed, hdriven, htms, trstAsserted_assertPins hwf hpin, trstAsserted_deassertPins hwf hpin,
      bne, BEq.beq]

/-! ## The calls of a `reset` that returns -/

theorem flushBuf_ok {s t : State} (h : flushBuf s = .ok () t) : t = if s.buf = [] then s else s.sent := by
  obtain ⟨hnil, hq⟩ | ⟨hne, -, hq⟩ | ⟨e, u, -, -, hq, -⟩ := flushBuf_cases s <;> rw [hq] at h <;> cases h
  · rw [if_pos hnil]
  · rw [if_neg hne]
    rfl

theorem txSetPins_ok {v : PinMask} {s t : State} (h : txSetPins v s = .ok () t) : t = s.pinsSet v := by
  obtain ⟨-, hq⟩ | ⟨e, u, -, hq, -⟩ := txSetPins_cases v s <;> rw [hq] at h <;> cases h
  rfl

/-- The pulse writes the link, and no field of the block but the event list and the answers (R187). -/
theorem resetPulse_ok {s t : State} (h : resetPulse s = .ok () t) :
    t.cfg = s.cfg ∧ t.buf = s.buf ∧ resetFrame t = resetFrame s ∧
      t.link = (s.link.changePins s.cfg (assertPins s.cfg) s.dir).changePins s.cfg (deassertPins s.cfg) s.dir := by
  rw [resetPulse, bind_eq_ok] at h
  obtain ⟨_, u, hu, h⟩ := h
  rw [bind_eq_ok] at h
  obtain ⟨_, v, hv, h⟩ := h
  cases h
  rw [txSetPins_ok hv, txSetPins_ok hu]
  exact ⟨rfl, rfl, rfl, rfl⟩

/-- The events go as one frame in one call. -/
theorem resetEvents_ok {s t : State} (hwf : s.cfg.wf = true) (hbuf : s.buf = []) (h : resetEvents s = .ok () t) :
    t.link = s.link.deliver (resetFrame s) ∧ t.buf = [] ∧ t.cfg = s.cfg := by
  have hsize := Config.maxFrame_ge hwf
  have hfits : s.fits (encodeFrame s.cfg (.wtms (List.replicate 5 true) (tdiSlot s))).length := by
    rw [State.fits, hbuf, encodeFrame_length, Frame.size, List.length_nil]
    omega
  have hev : 1 ≤ (List.replicate 5 true).length ∧ (List.replicate 5 true).length ≤ s.cfg.tmsMaxEvents :=
    ⟨by simp, by simpa using Config.tmsMaxEvents_ge hwf⟩
  rw [resetEvents, writeTms_of_fits hev hfits, bind_ok] at h
  have hne : (clearCarry (bufAppend (encodeFrame s.cfg (.wtms (List.replicate 5 true) (tdiSlot s))) s)).buf ≠ [] := by
    simp [encodeFrame_ne_nil]
  rw [flushBuf_ok h, if_neg hne]
  refine ⟨?_, rfl, rfl⟩
  simp [State.sent, Link.deliver, resetFrame, clearCarry, bufAppend, hbuf]

theorem resetCalls_ok {s t : State} (hwf : s.cfg.wf = true) (h : resetCalls s = .ok () t) :
    t.cfg = s.cfg ∧ t.buf = [] ∧
      t.link = (((if s.buf = [] then s else s.sent).link.settle s.cfg).pulsed s.cfg s.dir).deliver (resetFrame s) := by
  rw [resetCalls, bind_eq_ok] at h
  obtain ⟨_, u, hu, h⟩ := h
  rw [bind_eq_ok] at h
  obtain ⟨_, w, hw, h⟩ := h
  have hubuf := flushBuf_empties (.inl hu)
  obtain rfl := flushBuf_ok hu
  have hsame : (if s.buf = [] then s else s.sent).cfg = s.cfg ∧ (if s.buf = [] then s else s.sent).dir = s.dir ∧
      resetFrame (if s.buf = [] then s else s.sent) = resetFrame s := by
    split <;> exact ⟨rfl, rfl, rfl⟩
  generalize (if s.buf = [] then s else s.sent) = u at *
  obtain ⟨hcfg, hdir, hframe⟩ := hsame
  obtain ⟨hcfg₁, hbuf₁, hframe₁, hlink₁⟩ := resetPulse_ok hw
  obtain ⟨hlink, hbuf, hcfg₂⟩ := resetEvents_ok (by rwa [hcfg₁, hcfg]) (hbuf₁.trans hubuf) h
  refine ⟨hcfg₂.trans (hcfg₁.trans hcfg), hbuf, ?_⟩
  rw [hlink, hframe₁, hframe, hlink₁, hcfg, hdir, pulse_eq hwf]

/-- The block and the link after a `reset` that returned (R187). -/
theorem exec_reset_returned {s t : State} (hwf : s.cfg.wf = true) (h : exec .reset s = .next t)
    (hreply : t.reply = some (.ok .none)) :
    t.cfg = s.cfg ∧ t.tap = .tlr ∧ t.buf = [] ∧
      t.link = (((if s.buf = [] then s else s.sent).link.settle s.cfg).pulsed s.cfg s.dir).deliver (resetFrame s) := by
  obtain hopen | hclosed := session_cases s
  · rw [exec_reset hopen] at h
    obtain ⟨_, x, hx, rfl⟩ := checked_returned (es := []) (k := fun s => (resetCalls s).bind fun _ t =>
      .ok () { t with tap := .tlr }) h hreply
    rw [bind_eq_ok] at hx
    obtain ⟨_, x, hx, htap⟩ := hx
    cases htap
    obtain ⟨hcfg, hbuf, hlink⟩ := resetCalls_ok hwf hx
    exact ⟨hcfg, rfl, hbuf, hlink⟩
  · have hrefused : exec .reset s = refuses (.cme .sessionClosed) s := checked_closed hclosed
    rw [hrefused] at h
    cases h
    cases hreply

/-! ## An empty call on the wire -/

/-- Bytes taken off a wire that ends in an empty call leave that call or take it too. -/
theorem dropBytes_trailing (n : Nat) (w : List (List Byte)) :
    dropBytes n (w ++ [[]]) = dropBytes n w ∨ dropBytes n (w ++ [[]]) = dropBytes n w ++ [[]] := by
  induction w generalizing n with
  | nil => exact .inl (by simp [dropBytes])
  | cons x xs ih =>
    simp only [List.cons_append, dropBytes]
    split
    · exact .inr rfl
    · exact ih _

theorem dropChunk_trailing {w : List (List Byte)} (h : w.flatten ≠ []) : dropChunk (w ++ [[]]) = dropChunk w ++ [[]] := by
  induction w with
  | nil => exact absurd rfl h
  | cons x xs ih =>
    cases x with
    | nil => simpa [dropChunk] using ih (by simpa using h)
    | cons b bs => simp [dropChunk]

theorem keep_trailing (n : Nat) (l : Link) :
    (l.deliver []).keep n = l.keep n ∨ (l.deliver []).keep n = (l.keep n).deliver [] := by
  have hstream : (l.deliver []).stream = l.stream := by simp
  simp only [Link.keep, hstream]
  obtain htrail | htrail := dropBytes_trailing (l.stream.length - n) l.wire
  · exact .inl (congrArg (fun w => l.withWire w) htrail)
  · exact .inr (congrArg (fun w => l.withWire w) htrail)

theorem runFrame_deliver_nil (c : Config) (f : Frame) (l : Link) :
    (l.deliver []).runFrame c f = (l.runFrame c f).deliver [] := by
  refine (runFrame_withWire c (l.wire ++ [[]]) l f).trans ?_
  rw [← (runFrame_spec c f l).1]
  rfl

section
variable (c : Config) {l : Link} (h : l.wire.flatten ≠ [])
include h

theorem discard_trailing : (l.deliver []).discard c = (l.discard c).deliver [] := by
  simp only [Link.discard, Link.deliver, dropChunk_trailing h]
  rfl

theorem garble_trailing : (l.deliver []).garble c = (l.garble c).deliver [] := by
  rw [Link.garble, discard_trailing c h]
  rfl

end

/-- An empty call at the end of the wire changes nothing that is interpreted. -/
theorem settleN_trailing (c : Config) (n : Nat) (l : Link) :
    (l.deliver []).settleN c n = l.settleN c n ∨ (l.deliver []).settleN c n = (l.settleN c n).deliver [] := by
  induction n generalizing l with
  | zero => exact .inr rfl
  | succ n ih =>
    have hstream : (l.deliver []).stream = l.stream := by simp
    rw [Link.settleN, Link.settleN, hstream]
    have hne {e : Reject} (he : decodeFrame c l.stream = .error e) (htrunc : e ≠ .truncated) : l.wire.flatten ≠ [] := by
      intro hnil
      rw [Link.stream, hnil] at he
      cases he
      exact htrunc rfl
    split
    · next f rest _ =>
      obtain hkeep | hkeep := keep_trailing rest.length l <;> rw [hkeep]
      · exact .inl rfl
      · rw [runFrame_deliver_nil]
        exact ih _
    · exact .inr rfl
    · next he =>
      rw [discard_trailing c (hne he (by decide))]
      exact ih _
    · next e htrunc _ he =>
      rw [garble_trailing c (hne he htrunc)]
      exact ih _

theorem settle_deliver_nil_stream (c : Config) (l : Link) : ((l.deliver []).settle c).stream = (l.settle c).stream := by
  have hlen : (l.deliver []).stream.length = l.stream.length := by simp
  rw [Link.settle, hlen, Link.settle]
  obtain h | h := settleN_trailing c l.stream.length l <;> rw [h]
  simp

/-- What a flush leaves on the wire once it is interpreted is what the remote leaves of all that is sent and queued. -/
theorem flushed_settle_stream (s : State) :
    ((if s.buf = [] then s else s.sent).link.settle s.cfg).stream = s.remote.stream := by
  split
  · next h => rw [State.remote, Link.apply, h, settle_deliver_nil_stream]
  · rfl

/-! ## Synchronisation -/

/-- Five events with TMS at 1 make any remote known (40_tap_fsm.md R113). -/
theorem runWtms_five {c : Config} {l : Link} (h : l.WellFormed c) (d : Bool) :
    (l.runWtms c (List.replicate 5 true) d).At .tlr true := by
  have hwf := h.runFrame (.wtms (List.replicate 5 true) d)
  refine ⟨canonical_eq_singleton hwf.canonical hwf.nonempty fun u hu => ?_, rfl⟩
  obtain ⟨v, -, rfl⟩ := ((tmsClocks_spec c d (List.replicate 5 true) l).1 u).mp hu
  exact fiveOnesReachReset.1 v

theorem Link.WellFormed.pulsed {c : Config} {l : Link} (h : l.WellFormed c) (d : PinMask) :
    (l.pulsed c d).WellFormed c := by
  refine ⟨?_, ?_, h.irSh, h.drSh, h.irUpd, h.drUpd⟩ <;> simp only [Link.pulsed]
  · split
    · decide
    · exact h.nonempty
  · split
    · decide
    · exact h.canonical

/-- A `reset` that returns synchronises the block. -/
theorem reset_synchronises {s t : State} (hwf : s.cfg.wf = true) (hlink : s.link.wf s.cfg = true)
    (hwire : s.remote.stream = [] ∨ s.link.torn = true) (h : exec .reset s = .next t)
    (hreply : t.reply = some (.ok .none)) : t.Synchronised ∧ t.tap = .tlr := by
  obtain ⟨hcfg, htap, hbuf, ht⟩ := exec_reset_returned hwf h hreply
  have hstream := flushed_settle_stream s
  have htorn : (if s.buf = [] then s else s.sent).link.torn = s.link.torn := by split <;> rfl
  have hflushed : (if s.buf = [] then s else s.sent).link.WellFormed s.cfg := by
    split
    · exact Link.wf_iff.mp hlink
    · exact (Link.wf_iff.mp hlink).congr rfl rfl rfl rfl rfl
  generalize (if s.buf = [] then s else s.sent).link = l₀ at *
  have hnone : ((l₀.settle s.cfg).pulsed s.cfg s.dir).stream = [] := by
    rw [pulsed_stream, settle_torn, htorn]
    obtain hempty | hcut := hwire
    · rw [hstream, hempty, ite_self]
    · rw [if_pos hcut]
  have hframe : (Frame.wtms (List.replicate 5 true) (tdiSlot s)).wellFormed s.cfg = true :=
    decide_eq_true ⟨by simp, by simpa using Config.tmsMaxEvents_ge hwf⟩
  have hahead : Ahead t ((((l₀.settle s.cfg).pulsed s.cfg s.dir).bare).runWtms s.cfg (List.replicate 5 true) (tdiSlot s)) := by
    refine ⟨[.wtms (List.replicate 5 true) (tdiSlot s)], ?_, ?_⟩
    · rw [hbuf, List.append_nil, ht, deliver_stream, hnone, hcfg]
      exact Parses.frame hwf hframe
    · rw [ht, hcfg]
      rfl
  have hpulsed : ((l₀.settle s.cfg).pulsed s.cfg s.dir).bare.WellFormed s.cfg :=
    (hflushed.settle.pulsed s.dir).congr rfl rfl rfl rfl rfl
  exact ⟨synchronised_iff.mpr ⟨_, hahead, htap ▸ runWtms_five hpulsed _⟩, htap⟩

/-- Settles O57: `reset_synchronises`, and the link of `exec_reset_returned`. -/
theorem resetSynchronises : Obligations.ResetSynchronises := by
  unfold Obligations.ResetSynchronises
  refine ⟨fun s t => reset_synchronises, ?_⟩
  rintro s t l v hwf h hreply rfl rfl
  obtain ⟨-, -, -, ht⟩ := exec_reset_returned hwf h hreply
  have htorn : (if s.buf = [] then s else s.sent).link.torn = s.link.torn := by split <;> rfl
  rw [ht, Link.pulsed, settle_torn, htorn]
  rfl

end Sys2Proof.Machine

/-! # Operations keep the block synchronised (spec/43_link_model.md R236)

Each part of a sequencer operation keeps the pointer and the remote together: a change of state moves both, and data
frames are clocked in Shift-DR and Shift-IR, where the line keeps the remote. -/

namespace Sys2Proof.Machine

/-- Only the parameters, the pointer, the link and the buffer matter to synchronisation. -/
theorem State.Synchronised.congr {s t : State} (h : s.Synchronised) (hcfg : t.cfg = s.cfg) (htap : t.tap = s.tap)
    (hlink : t.link = s.link) (hbuf : t.buf = s.buf) : t.Synchronised := by
  obtain ⟨l, hl, hat⟩ := synchronised_iff.mp h
  exact synchronised_iff.mpr ⟨l, hl.congr hcfg hlink hbuf, htap ▸ hat⟩

/-- A part that, where it succeeds, keeps the parameters and the synchronisation. -/
def KeepsSync {α : Type} (s : State) (r : Res α) : Prop :=
  ∀ a t, r = .ok a t → t.cfg = s.cfg ∧ (s.Synchronised → t.Synchronised)

section
variable {α β : Type} {s : State}

theorem KeepsSync.pure (a : α) (s : State) : KeepsSync s (.ok a s) := by
  intro _ _ h
  cases h
  exact ⟨rfl, id⟩

theorem KeepsSync.bind {r : Res α} {f : α → State → Res β} (h : KeepsSync s r)
    (k : ∀ a t, r = .ok a t → t.cfg = s.cfg → KeepsSync t (f a t)) : KeepsSync s (r.bind f) := by
  intro b v hv
  rw [bind_eq_ok] at hv
  obtain ⟨a, t, ht, hv⟩ := hv
  obtain ⟨hcfg, hsync⟩ := h a t ht
  obtain ⟨hcfg', hsync'⟩ := k a t ht hcfg b v hv
  exact ⟨hcfg'.trans hcfg, hsync' ∘ hsync⟩

/-- A part that keeps the pointer and, at the level of its entry, the remote. -/
theorem KeepsAhead.keepsSync {r : Res α} (h : KeepsAhead s.tap (entry s.tap) s r)
    (htap : ∀ a t, r = .ok a t → t.tap = s.tap) : KeepsSync s r := by
  intro a t ht
  obtain ⟨hcfg, hkeep⟩ := h a t ht
  refine ⟨hcfg, fun hsync => synchronised_iff.mpr ?_⟩
  rw [htap a t ht]
  exact hkeep (synchronised_iff.mp hsync)

theorem changeState_keepsSync (hwf : s.cfg.wf = true) (target : Tap) : KeepsSync s (changeState target s) := by
  intro _ t ht
  refine ⟨changeState_cfg ht, fun hsync => synchronised_iff.mpr ?_⟩
  obtain ⟨l, hl, hat⟩ := synchronised_iff.mp hsync
  obtain ⟨ev, hroute, hends, -, hnil⟩ := route_ok s.tap target
  obtain ⟨es, hes, -, hahead⟩ := hl.changeState hwf hroute ht
  have hmoved := events_at (c := s.cfg) (es := es) hat
  have hlevel : ev.getLastD (entry s.tap) = entry target := by
    obtain rfl | hlast := route_level _ _ _ hroute
    · rw [hnil.mp rfl]
      rfl
    · rw [List.getLastD_eq_getLast?, hlast]
      rfl
  rw [hes, hends, hlevel] at hmoved
  exact ⟨_, hahead, (changeState_tap ht).symm ▸ hmoved⟩

theorem writeSeq_keepsSync (hwf : s.cfg.wf = true) (hstable : stable s.tap = true) (b : Bits) :
    KeepsSync s (writeSeq b s) := by
  refine KeepsAhead.keepsSync (fun _ t ht => ⟨writeSeq_cfg ht, ?_⟩) fun _ t ht => writeSeq_tap ht
  rintro ⟨l, hl, hat⟩
  exact ⟨_, hl.writeSeq hwf ht, dataClocks_at hat ((stable_iff _).mp hstable) _⟩

theorem readSeq_keepsSync (hwf : s.cfg.wf = true) (hstable : stable s.tap = true) (n : Nat) :
    KeepsSync s (readSeq n s) :=
  (readSeq_keepsAhead hwf ((stable_iff _).mp hstable) n).keepsSync fun _ _ ht => (readSeq_confined ht).2

theorem emit_keepsSync (hwf : s.cfg.wf = true) (hstable : stable s.tap = true) {f : Frame}
    (hf : f.wellFormed s.cfg = true) (hline : ∀ l, ∃ bs k, HoldsLine s.cfg f l bs k) : KeepsSync s (emit f s) := by
  intro _ t ht
  have hconfined := (emit_runsWithin (w := tableRow .flush) f s).ok _ _ ht
  refine ⟨hconfined.cfg, fun hsync => synchronised_iff.mpr ?_⟩
  obtain ⟨l, hl, hat⟩ := synchronised_iff.mp hsync
  obtain ⟨bs, k, hf'⟩ := hline l
  rw [hconfined.tap rfl]
  exact ⟨_, hl.emit hwf hf ht, hf'.at hat ((stable_iff _).mp hstable)⟩

/-- `shift_bytes` after its checks (R163). -/
theorem shiftBytes_keepsSync (hwf : s.cfg.wf = true) (hstable : stable s.tap = true) {b : Bits}
    (hb : wholeBytes (s.cfg.maxFrame - 3) b = true) :
    KeepsSync s ((exchange (.rwbytes b) (b.length / 8) s).bind fun r t => .ok (unpackBytes r) t) :=
  (KeepsAhead.keepsSync (shiftBytes_keepsAhead hwf ((stable_iff _).mp hstable) hb) fun _ _ ht =>
    ((exchange_runsWithin (w := tableRow .flush) _ _ s).ok _ _ ht).tap rfl).bind fun _ t _ _ => .pure _ t

theorem wholeBytes_of_checks {c : Config} {b : Bits} (halign : byteAlignErr b = none)
    (hsize : payloadErr c (b.length / 8) = none) : wholeBytes (c.maxFrame - 3) b = true := by
  obtain ⟨hne, hmod⟩ := (byteAlignErr_eq_none _).mp halign
  have hmax := (payloadErr_eq_none _ _).mp hsize
  simp only [wholeBytes, Bool.and_eq_true, decide_eq_true_eq]
  omega

theorem flushBuf_keepsSync (s : State) : KeepsSync s (flushBuf s) := by
  intro _ t ht
  have hconfined := (flushBuf_runsWithin (w := tableRow .flush) s).ok _ _ ht
  refine ⟨hconfined.cfg, fun hsync => synchronised_iff.mpr ?_⟩
  obtain ⟨l, hl, hat⟩ := synchronised_iff.mp hsync
  rw [hconfined.tap rfl]
  exact ⟨l, hl.flushBuf ht, hat⟩

/-! ## The sequencer's parts -/

theorem writeReg_keepsSync (hwf : s.cfg.wf = true) {shift : Tap} (hshift : stable shift = true) (update : Tap) (b : Bits) :
    KeepsSync s (writeReg shift update b s) :=
  (changeState_keepsSync hwf shift).bind fun _ t ht hcfg =>
    (writeSeq_keepsSync (hcfg ▸ hwf) (changeState_tap ht ▸ hshift) b).bind fun _ u _ hcfg' =>
      changeState_keepsSync (by rwa [hcfg', hcfg]) update

theorem readDr_keepsSync (hwf : s.cfg.wf = true) (n : Nat) : KeepsSync s (readDr n s) :=
  (changeState_keepsSync hwf .shdr).bind fun _ _ ht hcfg =>
    (readSeq_keepsSync (hcfg ▸ hwf) (by rw [changeState_tap ht]; rfl) n).bind fun _ u _ hcfg' =>
      (changeState_keepsSync (by rwa [hcfg', hcfg]) .updr).bind fun _ v _ _ => .pure _ v

theorem readDrThenIdle_keepsSync (hwf : s.cfg.wf = true) (n : Nat) : KeepsSync s (readDrThenIdle n s) :=
  (readDr_keepsSync hwf n).bind fun _ _ _ hcfg =>
    (changeState_keepsSync (hcfg ▸ hwf) .rti).bind fun _ u _ _ => .pure _ u

theorem loadAndWrite_keepsSync (hwf : s.cfg.wf = true) (pattern b : Bits) : KeepsSync s (loadAndWrite pattern b s) :=
  (writeReg_keepsSync hwf (by decide) .upir pattern).bind fun _ _ _ hcfg =>
    (writeReg_keepsSync (hcfg ▸ hwf) (by decide) .updr b).bind fun _ u _ hcfg' =>
      changeState_keepsSync (by rwa [hcfg', hcfg]) .rti

theorem loadAndRead_keepsSync (hwf : s.cfg.wf = true) (pattern : Bits) (n : State → Nat) :
    KeepsSync s ((writeIr pattern s).bind fun _ t => readDrThenIdle (n t) t) :=
  (writeReg_keepsSync hwf (by decide) .upir pattern).bind fun _ _ _ hcfg =>
    readDrThenIdle_keepsSync (hcfg ▸ hwf) _

theorem close_keepsSync (s : State) : KeepsSync s ((flushBuf s).bind fun _ s =>
    (txClose (clearCarry s)).bind fun _ s => .ok () { s with session := .closed }) := by
  refine (flushBuf_keepsSync s).bind fun _ t _ _ => ?_
  intro _ u hu
  rw [bind_eq_ok] at hu
  obtain ⟨_, v, hv, hu⟩ := hu
  cases hu
  obtain ⟨-, hq⟩ | ⟨e, w, -, hq, -⟩ := txClose_cases (clearCarry t) <;> rw [hq] at hv <;> cases hv
  exact ⟨rfl, fun hsync => hsync.congr rfl rfl rfl rfl⟩

end

/-! ## Operations -/

/-- An operation whose body keeps the synchronisation keeps it. -/
theorem checked_keepsSync {α : Type} {v : α → Value} {es : List (Option Err)} {s t : State}
    {k : State → Res α} {x : Value} (hs : s.Synchronised) (h : deliver v (check es s k) = .next t)
    (hreply : t.reply = some (.ok x)) (hk : (∀ e ∈ es, e = none) → KeepsSync s (k s)) : t.Synchronised := by
  obtain ⟨hpass, hrun⟩ | ⟨e, -, hrun⟩ := check_cases es s k
  · obtain ⟨a, u, hu, rfl⟩ := checked_returned h hreply
    exact ((hk hpass a u hu).2 hs).congr rfl rfl rfl rfl
  · rw [hrun] at h
    cases h
    cases hreply

/-- Settles O58: the operations of each group by the parts they are, `reset` by `reset_synchronises`. -/
theorem operationsKeepSynchronised : Obligations.OperationsKeepSynchronised := by
  unfold Obligations.OperationsKeepSynchronised
  intro s t i v hinv hs hi h hreply
  have hwf := hinv.cfg
  obtain hi | ⟨hi, hstable⟩ := hi
  · cases i with
    | flush => exact checked_keepsSync hs h hreply fun _ => flushBuf_keepsSync s
    | close => exact checked_keepsSync hs h hreply fun _ => close_keepsSync s
    | changeState target => exact checked_keepsSync hs h hreply fun _ => changeState_keepsSync hwf target
    | goIdle => exact checked_keepsSync hs h hreply fun _ => changeState_keepsSync hwf .rti
    | writeIr b => exact checked_keepsSync hs h hreply fun _ => writeReg_keepsSync hwf (by decide) .upir b
    | writeDr b => exact checked_keepsSync hs h hreply fun _ => writeReg_keepsSync hwf (by decide) .updr b
    | readDr n => exact checked_keepsSync hs h hreply fun _ => readDr_keepsSync hwf n
    | reset =>
      obtain ⟨_, _, _, rfl⟩ := checked_returned h hreply
      obtain ⟨l, hl, -⟩ := synchronised_iff.mp hs
      exact (reset_synchronises hwf hinv.link (.inl hl.remote.2) h rfl).1
    | idcode => exact checked_keepsSync hs h hreply fun _ => readDrThenIdle_keepsSync hwf 32
    | preload b => exact checked_keepsSync hs h hreply fun _ => loadAndWrite_keepsSync hwf _ b
    | sample =>
      exact checked_keepsSync hs h hreply fun _ =>
        loadAndRead_keepsSync hwf s.prov.sample fun t => t.prov.boundaryLength.toNat
    | extest b => exact checked_keepsSync hs h hreply fun _ => loadAndWrite_keepsSync hwf _ b
    | readback => exact checked_keepsSync hs h hreply fun _ => readDrThenIdle_keepsSync hwf _
    | _ => cases hi
  · have hstay := (stable_iff _).mp hstable
    cases i with
    | writeBits b =>
      exact checked_keepsSync hs h hreply fun hpass => emit_keepsSync (f := .wbits b) hwf hstable
        (decide_eq_true ((bitCountErr_eq_none _ _).mp (hpass _ (by simp)))) fun l => ⟨_, _, wbits_holdsLine _ l b⟩
    | writeBytes b =>
      exact checked_keepsSync hs h hreply fun hpass => emit_keepsSync (f := .wbytes b) hwf hstable
        (wholeBytes_of_checks (hpass _ (by simp)) (hpass _ (by simp))) fun l => ⟨_, _, wbytes_holdsLine _ l b⟩
    | write b => exact checked_keepsSync hs h hreply fun _ => writeSeq_keepsSync hwf hstable b
    | readBits n =>
      exact checked_keepsSync hs h hreply fun hpass =>
        (readBits_keepsAhead hwf hstay ((readBitsErr_eq_none _ _).mp (hpass _ (by simp)))).keepsSync fun _ _ ht =>
          ((readBits_runsWithin (w := tableRow .flush) n s).ok _ _ ht).tap rfl
    | readBytes n =>
      exact checked_keepsSync hs h hreply fun hpass =>
        (readBytes_keepsAhead hwf hstay ((readBytesErr_eq_none _ _).mp (hpass _ (by simp)))).keepsSync fun _ _ ht =>
          ((readBytes_runsWithin (w := tableRow .flush) n s).ok _ _ ht).tap rfl
    | read n => exact checked_keepsSync hs h hreply fun _ => readSeq_keepsSync hwf hstable n
    | shiftBytes b =>
      exact checked_keepsSync hs h hreply fun hpass => shiftBytes_keepsSync hwf hstable
        (wholeBytes_of_checks (hpass _ (by simp)) (hpass _ (by simp)))
    | _ => cases hi

end Sys2Proof.Machine

/-! # Register writes land and register reads return (spec/43_link_model.md R232 to R237)

From a synchronised state: the bits of a register write are clocked in, the last with the exit, and the register is latched
on the way; a read of the whole data register returns what was captured on the way in. -/

namespace Sys2Proof.Machine

/-! ## What a register holds -/

theorem shiftedIn_append (r a b : Bits) : shiftedIn (shiftedIn r a) b = shiftedIn r (a ++ b) := by
  rw [shiftedIn, shiftedIn, shiftedIn, ← List.drop_append_of_le_length (by simp), List.drop_drop, List.append_assoc,
    List.length_append]

theorem shiftedIn_whole {r b : Bits} (h : b.length = r.length) : shiftedIn r b = b := by
  rw [shiftedIn, h, List.drop_left]

theorem shiftedIn_length (r b : Bits) : (shiftedIn r b).length = r.length := by
  simp [shiftedIn]

theorem sentBits_append_lastBit {b : Bits} (h : b ≠ []) : sentBits b ++ [lastBit b] = b := by
  have hlast : lastBit b = b.getLast h := by
    rw [lastBit, List.getLastD_eq_getLast?, List.getLast?_eq_some_getLast h, Option.getD_some]
  rw [sentBits, ← List.dropLast_eq_take, hlast, List.dropLast_append_getLast]

/-- The bits of a register (R231). -/
def TargetReg.length : TargetReg → Config → Nat
  | .dr, c => c.drLen
  | .ir, c => c.irLen

theorem Link.WellFormed.bits_length {c : Config} {l : Link} (h : l.WellFormed c) (R : TargetReg) :
    (R.bits l).length = R.length c := by
  cases R with
  | dr => exact h.drSh
  | ir => exact h.irSh

theorem TargetReg.length_pos {c : Config} (hwf : c.wf = true) (R : TargetReg) : 1 ≤ R.length c := by
  simp only [Config.wf, Bool.and_eq_true, decide_eq_true_eq] at hwf
  cases R <;> simp only [TargetReg.length, hwf]

/-! ## One event -/

theorem event_registers {c : Config} {l : Link} {u : Tap} (h : l.poss = [u]) (m d : Bool) :
    ∃ k, l.event c (m, d) = { l with
      poss := [nxt u m], tms := some m, free := k
      drSh := if nxt u m = .capdr then bitsOfNat c.drLen c.drCapture
        else if u = .shdr then shiftedIn l.drSh [d] else l.drSh
      irSh := if nxt u m = .capir then bitsOfNat c.irLen c.irCapture
        else if u = .shir then shiftedIn l.irSh [d] else l.irSh
      drUpd := if nxt u m = .updr then l.drSh else l.drUpd
      irUpd := if nxt u m = .upir then l.irSh else l.irUpd } := by
  obtain ⟨k, hk⟩ := clock_registers (c := c) (m := m) (d := d) h
  refine ⟨k, ?_⟩
  rw [Link.event, Link.runWtms, Link.tmsClocks, Link.tmsClocks, hk]
  rfl

/-- The event that leaves a shift state clocks its TDI bit in (R224). -/
theorem event_of_shiftTap {R : TargetReg} {c : Config} {l : Link} (h : l.poss = [R.shiftTap]) (d : Bool) :
    (l.event c (true, d)).poss = [nxt R.shiftTap true] ∧ R.bits (l.event c (true, d)) = shiftedIn (R.bits l) [d] := by
  obtain ⟨k, hk⟩ := event_registers (c := c) h true d
  rw [hk]
  cases R <;> exact ⟨rfl, rfl⟩

/-- The event that enters an update state latches the register (R234). -/
theorem event_to_updateTap {R : TargetReg} {c : Config} {l : Link} (h : l.poss = [nxt R.shiftTap true]) (d : Bool) :
    R.latch (l.event c (true, d)) = R.bits l := by
  obtain ⟨k, hk⟩ := event_registers (c := c) h true d
  rw [hk]
  cases R <;> rfl

/-- The way out of a shift state latches the register with the first event's TDI bit shifted in (R234, R237). -/
theorem latch_events {R : TargetReg} {c : Config} {l : Link} {es : List (Bool × Bool)} {d : Bool}
    (h : l.poss = [R.shiftTap]) (hes : es.map Prod.fst = [true, true]) (hfirst : ∀ e rest, es = e :: rest → e.2 = d) :
    R.latch (l.events c es) = shiftedIn (R.bits l) [d] := by
  obtain ⟨⟨m, x⟩, ⟨m', x'⟩, rfl⟩ : ∃ e e', es = [e, e'] :=
    List.length_eq_two.mp (by simpa using congrArg List.length hes)
  obtain ⟨rfl, rfl⟩ : m = true ∧ m' = true := by simpa using hes
  obtain rfl : x = d := hfirst _ _ rfl
  obtain ⟨hexit, hin⟩ := event_of_shiftTap (c := c) h x
  exact (event_to_updateTap hexit x').trans hin

theorem Link.WellFormed.events {c : Config} {l : Link} (h : l.WellFormed c) (es : List (Bool × Bool)) :
    (l.events c es).WellFormed c := by
  induction es generalizing l with
  | nil => exact h
  | cons e es ih => exact ih (h.runFrame (.wtms [e.1] e.2))

theorem events_out (c : Config) (es : List (Bool × Bool)) (l : Link) : (l.events c es).out = l.out := by
  induction es generalizing l with
  | nil => rfl
  | cons e es ih => exact (ih _).trans (tmsClocks_spec c e.2 [e.1] l).2.2.1

/-! ## A register write -/

theorem remote_wellFormed {s : State} (h : s.Inv) : s.remote.WellFormed s.cfg :=
  ((Link.wf_iff.mp h.link).congr (l' := s.link.deliver s.buf) rfl rfl rfl rfl rfl).settle

/-- The way into a shift state, from a synchronised state: the remote is in it with the line at 0, its registers whole. -/
theorem changeState_enters {R : TargetReg} {s t : State} {l : Link} (hwf : s.cfg.wf = true) (hl : Ahead s l)
    (hat : l.At s.tap (entry s.tap)) (hlink : l.WellFormed s.cfg) (ht : changeState R.shiftTap s = .ok () t) :
    ∃ l', Ahead t l' ∧ l'.At R.shiftTap false ∧ l'.WellFormed s.cfg := by
  obtain ⟨ev, hroute, -⟩ := route_ok s.tap R.shiftTap
  obtain ⟨es, -, -, hahead⟩ := hl.changeState hwf hroute ht
  obtain ⟨l', hl', hat'⟩ := synchronised_iff.mp
    (((changeState_keepsSync hwf R.shiftTap) _ t ht).2 (synchronised_iff.mpr ⟨l, hl, hat⟩))
  obtain rfl : l' = l.events s.cfg es := hl'.remote.1.symm.trans hahead.remote.1
  rw [changeState_tap ht] at hat'
  have hentry : entry R.shiftTap = false := by cases R <;> rfl
  exact ⟨_, hahead, hentry ▸ hat', hlink.events es⟩

/-- A synchronised register write of the register's length leaves its bits in the latch (R237). -/
theorem writeReg_lands {R : TargetReg} {s t : State} {b : Bits} (hinv : s.Inv) (hs : s.Synchronised)
    (hlen : b.length = R.length s.cfg) (ht : writeReg R.shiftTap R.updateTap b s = .ok () t) :
    R.latch t.remote = b := by
  have hwf := hinv.cfg
  have hne : b ≠ [] := List.length_pos_iff.mp (by rw [hlen]; exact R.length_pos hwf)
  rw [writeReg, bind_eq_ok] at ht
  obtain ⟨_, u, hu, ht⟩ := ht
  rw [bind_eq_ok] at ht
  obtain ⟨_, v, hv, ht⟩ := ht
  have hucfg := changeState_cfg hu
  have hvcfg := writeSeq_cfg hv
  obtain ⟨l₁, hl₁, ⟨hposs₁, htms₁⟩, hwf₁⟩ := changeState_enters hwf (ahead_of_wholeFrames hs.frames)
    ⟨hs.tap, hs.level⟩ ((remote_wellFormed hinv).congr rfl rfl rfl rfl rfl) hu
  have hbits : (R.bits l₁).length = b.length := (hwf₁.bits_length R).trans hlen.symm
  have hne₁ : R.bits l₁ ≠ [] := List.length_pos_iff.mp (hbits ▸ List.length_pos_iff.mpr hne)
  have hl₂ := hl₁.writeSeq (hucfg ▸ hwf) hv
  rw [dataClocks_of_shiftTap htms₁ hposs₁ hne₁] at hl₂
  have hvtap : v.tap = R.shiftTap := (writeSeq_tap hv).trans (changeState_tap hu)
  have hroute : route v.tap R.updateTap = .ok [true, true] := by
    rw [hvtap]
    cases R <;> rfl
  obtain ⟨es, hes, hfirst, hl₃⟩ := hl₂.changeState (by rwa [hvcfg, hucfg]) hroute ht
  have hslot : tdiSlot v = lastBit b := by
    obtain ⟨-, hcarry, hlast⟩ := writeSeq_carry hv
    rw [tdiSlot, hcarry, hlast]
    rfl
  have hremote : R.latch t.remote = R.latch t.remote.bare := by cases R <;> rfl
  calc R.latch t.remote
      = R.latch ((R.put (shiftedIn (R.bits l₁) (sentBits b)) l₁).events v.cfg es) := by rw [hremote, hl₃.remote.1]
    _ = shiftedIn (shiftedIn (R.bits l₁) (sentBits b)) [lastBit b] := by
      rw [latch_events ((R.put_fields _ l₁).1.trans hposs₁) hes hfirst, R.bits_put, hslot]
    _ = b := by rw [shiftedIn_append, sentBits_append_lastBit hne, shiftedIn_whole hbits.symm]

/-- Settles O59: `writeReg_lands` for the two registers. -/
theorem registerWriteLands : Obligations.RegisterWriteLands := by
  unfold Obligations.RegisterWriteLands
  refine fun s t b hinv hs => ⟨fun hlen h hreply => ?_, fun hlen h hreply => ?_⟩
  · obtain ⟨_, u, hu, rfl⟩ := checked_returned h hreply
    have hlands := writeReg_lands (R := .dr) hinv hs hlen hu
    exact hlands
  · obtain ⟨_, u, hu, rfl⟩ := checked_returned h hreply
    have hlands := writeReg_lands (R := .ir) hinv hs hlen hu
    exact hlands

end Sys2Proof.Machine

/-! # A register read returns the captured value (spec/43_link_model.md R225 to R227, R233, R237)

Over the reference link, which serves every call: the route to Shift-DR captures, and the read frames answer what the
register shifts out. -/

namespace Sys2Proof.Machine

/-! ## The capture -/

/-- The states whose route to Shift-DR goes through Capture-DR. -/
theorem route_captures {u : Tap} (h : u ∉ [Tap.capdr, .shdr, .ex1dr, .pdr, .ex2dr]) :
    ∃ before, route u .shdr = .ok (before ++ [false, false]) ∧ applyEvents u before = .seldr := by
  refine ⟨(routeEvents u .shdr).dropLast.dropLast, ?_⟩
  cases u <;> simp at h <;> exact ⟨rfl, rfl⟩

/-- From Select-DR-Scan two events at TMS = 0 capture and enter Shift-DR (R232). -/
theorem events_capture {c : Config} {l : Link} (h : l.poss = [.seldr]) (d d' : Bool) :
    (l.events c [(false, d), (false, d')]).poss = [.shdr] ∧ (l.events c [(false, d), (false, d')]).tms = some false ∧
      (l.events c [(false, d), (false, d')]).drSh = bitsOfNat c.drLen c.drCapture := by
  obtain ⟨k, hk⟩ := event_registers (c := c) h false d
  obtain ⟨k', hk'⟩ := event_registers (c := c) (l := l.event c (false, d)) (event_at h (false, d)).1 false d'
  have htwo : l.events c [(false, d), (false, d')] = (l.event c (false, d)).event c (false, d') := rfl
  rw [htwo, hk', hk]
  exact ⟨rfl, rfl, rfl⟩

/-- A synchronised change of state to Shift-DR by one of those routes leaves the captured value in the register. -/
theorem changeState_captures {s t : State} {l : Link} (hwf : s.cfg.wf = true) (hl : Ahead s l)
    (hat : l.At s.tap (entry s.tap)) (hpath : s.tap ∉ [Tap.capdr, .shdr, .ex1dr, .pdr, .ex2dr]) (ht : changeState .shdr s = .ok () t) :
    ∃ l', Ahead t l' ∧ l'.poss = [.shdr] ∧ l'.tms = some false ∧ l'.drSh = bitsOfNat s.cfg.drLen s.cfg.drCapture ∧
      l'.out = l.out := by
  obtain ⟨before, hroute, hseldr⟩ := route_captures hpath
  obtain ⟨es, hes, -, hahead⟩ := hl.changeState hwf hroute ht
  obtain ⟨es₁, es₂, rfl, hes₁, hes₂⟩ := List.map_eq_append_iff.mp hes
  obtain ⟨⟨m, d⟩, ⟨m', d'⟩, rfl⟩ : ∃ e e', es₂ = [e, e'] :=
    List.length_eq_two.mp (by simpa using congrArg List.length hes₂)
  obtain ⟨rfl, rfl⟩ : m = false ∧ m' = false := by simpa using hes₂
  have hbefore := (events_at (c := s.cfg) (es := es₁) hat).1
  rw [hes₁, hseldr] at hbefore
  obtain ⟨hposs, htms, hbits⟩ := events_capture (c := s.cfg) hbefore d d'
  rw [← events_append] at hposs htms hbits
  exact ⟨_, hahead, hposs, htms, hbits, events_out _ _ _⟩

/-- What a register shifts out in two pieces that are as long as it is the register. -/
theorem shiftedOut_shiftedIn {r a b : Bits} (h : a.length + b.length = r.length) :
    shiftedOut r a ++ shiftedOut (shiftedIn r a) b = r := by
  have hin : shiftedIn r a = r.drop a.length ++ a := by rw [shiftedIn, List.drop_append_of_le_length (by omega)]
  rw [shiftedOut, shiftedOut, hin, List.take_append_of_le_length (by omega), List.append_assoc,
    List.take_append_of_le_length (by rw [List.length_drop]; omega), List.take_of_length_le (l := r.drop a.length)
      (by rw [List.length_drop]; omega), List.take_append_drop]

/-! ## A read that is served -/

theorem Ahead.settled {s : State} {l : Link} (h : Ahead s l) (hbuf : s.buf = []) : (s.link.settle s.cfg).bare = l := by
  obtain ⟨fs, hfs, rfl⟩ := h
  rw [hbuf, List.append_nil] at hfs
  exact (settle_of_parses hfs).1

theorem callFails_of_noAnswers {s : State} (h : s.inp = []) : s.callFails = false := by
  rw [State.callFails, State.answer, h]
  rfl

/-- An exchange over the reference link: its result is the oldest responses once the frame has run (R227). -/
theorem exchange_of_served {f : Frame} {n : Nat} {s : State} {l : Link} (hwf : s.cfg.wf = true) (hinp : s.inp = [])
    (hf : f.wellFormed s.cfg = true) (hsize : f.size ≤ s.cfg.maxFrame) (hl : Ahead s l)
    (hout : n ≤ (l.runFrame s.cfg f).out.length) :
    ∃ t, exchange f n s = .ok ((l.runFrame s.cfg f).out.take n) t ∧ t.inp = [] ∧ t.buf = [] := by
  have hroom : s.fits (encodeFrame s.cfg f).length ∨ s.callFails = false := .inr (callFails_of_noAnswers hinp)
  have hqueue : emit f s = .ok () (s.queued (encodeFrame s.cfg f)) := queueBytes_queued (by rwa [encodeFrame_length]) hroom
  have hqinp : (s.queued (encodeFrame s.cfg f)).inp = [] := by
    rw [State.queued]
    split
    · exact hinp
    · exact congrArg List.tail hinp
  have hflush : flushBuf (s.queued (encodeFrame s.cfg f)) = .ok () (s.queued (encodeFrame s.cfg f)).sent := by
    rw [flushBuf_eq (queued_frame_ne_nil f s), if_neg (by simp [callFails_of_noAnswers hqinp])]
  have hsinp : (s.queued (encodeFrame s.cfg f)).sent.inp = [] := congrArg List.tail hqinp
  have hahead := (hl.emit hwf hf hqueue).flushBuf hflush
  generalize (s.queued (encodeFrame s.cfg f)).sent = u at *
  have hubuf : u.buf = [] := flushBuf_empties (.inl hflush)
  have hresponse : (u.link.settle u.cfg).bare.out = (l.runFrame s.cfg f).out := congrArg Link.out (hahead.settled hubuf)
  have hreads : u.reads n ((l.runFrame s.cfg f).out.take n) :=
    .inr ⟨by rw [State.answer, hsinp]; rfl, congrArg (List.take n) hresponse.symm⟩
  have hlen : ((l.runFrame s.cfg f).out.take n).length = n := by
    rw [List.length_take]
    omega
  have hread := (txRead_of_reads hreads).trans (if_pos hlen)
  have hrun := exchange_of_queued (n := n) hsize hroom
  rw [hflush, bind_ok, hread] at hrun
  exact ⟨_, hrun, congrArg List.tail hsinp, hubuf⟩

/-- A read of Shift-DR under way over the reference link: the parameters, the calls served, room for a read frame, and
the data register at `r` with no response outstanding. -/
structure Reading (c : Config) (r : Bits) (s : State) : Prop where
  cfg : s.cfg = c
  served : s.inp = []
  room : s.fits 3
  ahead : ∃ l, Ahead s l ∧ l.poss = [.shdr] ∧ l.tms = some false ∧ l.drSh = r ∧ l.out = []

/-- A part of a read, or nothing. -/
theorem Reading.readIf {c : Config} {r : Bits} {s : State} (h : Reading c r s) {n units : Nat}
    {op : Nat → State → Res Bits}
    (hop : 0 < units → ∃ t, op units s = .ok (shiftedOut r (List.replicate n c.readTdi)) t ∧
      Reading c (shiftedIn r (List.replicate n c.readTdi)) t) (hn : units = 0 → n = 0) :
    ∃ t, readIf units op s = .ok (shiftedOut r (List.replicate n c.readTdi)) t ∧
      Reading c (shiftedIn r (List.replicate n c.readTdi)) t := by
  rw [Machine.readIf]
  split
  · next hpos => exact hop hpos
  · next hzero =>
    obtain rfl := hn (by omega)
    exact ⟨s, by simp [shiftedOut], by simpa [shiftedIn] using h⟩

section
variable {c : Config} {r : Bits} {s : State} (hwf : c.wf = true) (h : Reading c r s) (hr : r ≠ [])
include hwf h

/-- A read frame answers what the register shifts out and leaves the rest to the next. -/
theorem Reading.exchange {f : Frame} {d : Bits} {n : Nat} (value : List Byte → Bits) (hf : f.wellFormed c = true)
    (hsize : f.size ≤ 3)
    (hrun : ∀ l : Link, l.poss = [.shdr] → l.tms = some false → l.drSh = r → l.out = [] → ∃ k bs,
      l.runFrame c f = { l with drSh := shiftedIn r d, free := k, out := bs } ∧ bs.length = n ∧
        value bs = shiftedOut r d) :
    ∃ bs t, Machine.exchange f n s = .ok bs t ∧ value bs = shiftedOut r d ∧ Reading c (shiftedIn r d) t := by
  obtain ⟨rfl, hserved, -, l, hl, hposs, htms, hbits, hout⟩ := h
  have hmax := Config.maxFrame_ge hwf
  obtain ⟨k, bs, hframe, hlen, hvalue⟩ := hrun l hposs htms hbits hout
  obtain ⟨t, ht, hinp, hbuf⟩ := exchange_of_served (n := n) hwf hserved hf (by omega) hl (by rw [hframe, ← hlen])
  have hahead := hl.exchange hwf hf ht
  have hcfg : t.cfg = s.cfg := ((exchange_runsWithin (w := tableRow .flush) f n s).ok _ _ ht).cfg
  have htake : (l.runFrame s.cfg f).out.take n = bs := by rw [hframe, ← hlen, List.take_length]
  have hdrop : (l.runFrame s.cfg f).out.drop n = [] := by rw [hframe, ← hlen, List.drop_length]
  rw [hdrop, hframe] at hahead
  refine ⟨bs, t, htake ▸ ht, hvalue, hcfg, hinp, ?_, _, hahead, hposs, htms, rfl, rfl⟩
  rw [State.fits, hbuf, hcfg, List.length_nil]
  omega

include hr

theorem Reading.readBytes {n : Nat} (hn : 1 ≤ n ∧ n ≤ c.readBytesMax) :
    ∃ t, readBytes n s = .ok (shiftedOut r (List.replicate (8 * n) c.readTdi)) t ∧
      Reading c (shiftedIn r (List.replicate (8 * n) c.readTdi)) t := by
  obtain ⟨bs, t, ht, hvalue, hnext⟩ := h.exchange hwf (f := .rbytes n) (n := n)
    (d := List.replicate (8 * n) c.readTdi) unpackBytes (decide_eq_true hn) le_rfl
    fun l hposs htms hbits hout => by
      subst hbits
      obtain ⟨bs, hrun, hlen, hvalue⟩ := respond_of_shiftTap (R := .dr) (c := c) htms hposs hr
        (d := List.replicate (8 * n) c.readTdi) (by simp)
      rw [hout, List.nil_append] at hrun
      exact ⟨l.free, bs, hrun, by simpa using hlen, hvalue⟩
  exact ⟨t, by rw [Machine.readBytes, ht, bind_ok, hvalue], hnext⟩

theorem Reading.readBits {n : Nat} (hn : 1 ≤ n ∧ n ≤ c.readBitsMax) :
    ∃ t, readBits n s = .ok (shiftedOut r (List.replicate n c.readTdi)) t ∧
      Reading c (shiftedIn r (List.replicate n c.readTdi)) t := by
  have hmax := Config.readBitsMax_le hwf
  obtain ⟨bs, t, ht, hvalue, hnext⟩ := h.exchange hwf (f := .rbits n) (n := 1)
    (d := List.replicate n c.readTdi) (fun bs => justified c n (bs.headD 0#8))
    (decide_eq_true hn) (by decide : 2 ≤ 3) fun l hposs htms hbits hout => by
      subst hbits
      obtain ⟨x, k, hrun, hvalue⟩ := runRbits_of_shiftTap (R := .dr) (c := c) htms hposs hr (n := n) (by omega)
      rw [hout, List.nil_append] at hrun
      exact ⟨k, [x], hrun, rfl, hvalue⟩
  exact ⟨t, by rw [Machine.readBits, ht, bind_ok, hnext.cfg, hvalue], hnext⟩

/-- A read of the whole register returns it (R233). -/
theorem Reading.readSeq (hcarry : carryErr s = none) (hmax : r.length / 8 ≤ c.readBytesMax) :
    ∃ t, readSeq r.length s = .ok r t ∧ t.cfg = c ∧ t.fits 3 := by
  have hread : readErr s.cfg r.length = none := (readErr_eq_none _ _).mpr (h.cfg ▸ hmax)
  have hbits := Config.readBitsMax_ge hwf
  obtain ⟨t, ht, hnext⟩ := h.readIf (units := r.length / 8) (n := 8 * (r.length / 8))
    (fun hpos => h.readBytes hwf hr ⟨hpos, hmax⟩) (by omega)
  have hr₁ : shiftedIn r (List.replicate (8 * (r.length / 8)) c.readTdi) ≠ [] :=
    List.length_pos_iff.mp (by rw [shiftedIn_length]; exact List.length_pos_iff.mpr hr)
  obtain ⟨u, hu, hdone⟩ := hnext.readIf (units := r.length % 8) (n := r.length % 8)
    (fun hpos => hnext.readBits hwf hr₁ ⟨hpos, by omega⟩) id
  refine ⟨u, ?_, hdone.cfg, hdone.room⟩
  rw [Machine.readSeq, hread, hcarry, check_none, check_none, check_nil, ht, bind_ok, hu, bind_ok,
    shiftedOut_shiftedIn (by simp; omega)]

end

/-! ## The operation -/

/-- Settles O60: the route captures and leaves room; `Reading.readSeq` returns the register; the exit frames fit. -/
theorem readDrReturnsCapture : Obligations.ReadDrReturnsCapture := by
  unfold Obligations.ReadDrReturnsCapture
  intro s hinv hs hopen hfree hpath hinp hout hfits hmax
  have hwf := hinv.cfg
  have hroute := routeFrames_length_le s.cfg s.tap .shdr (tdiSlot s)
  have henter : changeState .shdr s = .ok () (s.routed .shdr) := changeState_of_fits hwf (by rw [State.fits] at *; omega)
  have hreading : Reading s.cfg (bitsOfNat s.cfg.drLen s.cfg.drCapture) (s.routed .shdr) := by
    refine ⟨routed_cfg _ _, (routed_inp _ _).trans hinp, ?_, ?_⟩
    · rw [State.fits, routed_buf, routed_cfg, List.length_append]
      rw [State.fits] at hfits
      omega
    · obtain ⟨l, hahead, hposs, htms, hbits, hsame⟩ :=
        changeState_captures hwf (ahead_of_wholeFrames hs.frames) ⟨hs.tap, hs.level⟩ hpath henter
      exact ⟨l, hahead, hposs, htms, hbits, hsame.trans hout⟩
  have hcarry : carryErr (s.routed .shdr) = none := carryErr_of_free (routed_carryFree hfree)
  have hlen : (bitsOfNat s.cfg.drLen s.cfg.drCapture).length = s.cfg.drLen := bitsOfNat_length _ _
  have hne : bitsOfNat s.cfg.drLen s.cfg.drCapture ≠ [] :=
    List.length_pos_iff.mp (hlen.symm ▸ TargetReg.dr.length_pos hwf)
  obtain ⟨u, hu, hucfg, hroom⟩ := hreading.readSeq hwf hne hcarry (hlen.symm ▸ hmax)
  rw [hlen] at hu
  have hutap : u.tap = .shdr := (readSeq_confined hu).2.trans (routed_tap _ _)
  have hexit : changeState .updr u = .ok () (u.routed .updr) :=
    changeState_of_fits (hucfg ▸ hwf) (by
      have := routeFrames_length_of_short (source := .shdr) (target := .updr) (d := tdiSlot u) (hucfg ▸ hwf) (by decide)
      rw [State.fits, hutap] at *
      omega)
  have hexec : exec (.readDr s.cfg.drLen) s = deliver Value.bits (readDr s.cfg.drLen s) :=
    checked_runs (by simp [hopen, hmax, carryErr_of_free hfree])
  exact ⟨_, by rw [hexec, readDr, henter, bind_ok, hu, bind_ok, hexit, bind_ok, deliver_ok], rfl⟩

end Sys2Proof.Machine
